-- ==== Sys2Proof/Word.lean ====
section
/-! DEFINITION. The word types of SONATA-CE: bytes, 32-bit words and nibbles (spec/00_scope.md R11, R15), and the
byte string of R13. What a rule does with them (bit numbering, nibble views, byte-string XOR) is in
Machine/Operands.lean. -/

namespace Sys2Proof

/-- A byte, 0..255 (R11). -/
abbrev Byte := BitVec 8

/-- A word, 0..2^32−1 (R11): a register on the host port, a command word, a generator state. -/
abbrev Word := BitVec 32

/-- A nibble, 0..15 (R11). -/
abbrev Nibble := BitVec 4

/-- A byte string, element 0 first (R13). -/
abbrev Bytes := List Byte

end Sys2Proof
end

