-- ==== Sys2Proof/Config.lean ====
section
/-! DEFINITION. The parameter record of SONATA-CE: the quantities spec/00_scope.md R9 leaves open, each under its own
name, and the default parameter set P0 of the same rule. The quantities R8 fixes (block of 8 bytes, 16 and 64 table
entries, six stages, the rotation (7r+3) mod 128, the constant 0xA5) are written where they are used. -/

namespace Sys2Proof

/-- One instance's parameter set (R9): "Each is a named parameter of the model's configuration record". A machine
state carries its instance's record and no step changes it, so a statement about every state is a statement about every
parameter set (R10); notes/assumptions/1.md. The constraints of R9 are `Config.valid` in WellFormed.lean. -/
structure Config where
  /-- ROUNDS_MAX, the largest round count a command accepts. -/
  roundsMax : Nat
  /-- KEY_CAP, the capacity of the key memory in bytes. -/
  keyCap : Nat
  /-- BUF_CAP, the capacity of each data buffer in bytes. -/
  bufCap : Nat
  /-- BASE, the bus address of the register window. -/
  base : Nat
  /-- HASH_INIT, the initial value of the key-folding hash. -/
  hashInit : Word
  /-- HASH_MUL, the multiplier of the key-folding hash. -/
  hashMul : Word
  /-- MIX_S, the seed-mixing constant of the SBox. -/
  mixS : Word
  /-- MIX_P, the seed-mixing constant of the PBox. -/
  mixP : Word
  /-- LCG_A, the LCG multiplier. -/
  lcgA : Word
  /-- LCG_C, the LCG increment. -/
  lcgC : Word
  /-- RC_SEED, the fixed seed of `RoundConstant16`. -/
  rcSeed : Word
  /-- RC_MUL, the multiplier of the multiplicative congruential generator. -/
  rcMul : Word
  /-- FNV_BASIS, the FNV-1a offset basis. -/
  fnvBasis : Word
  /-- FNV_PRIME, the FNV-1a prime. -/
  fnvPrime : Word
  /-- GOLDEN, the fixed golden-ratio constant. -/
  golden : Word
  /-- XS_A, the first (left) shift amount of xorshift32. -/
  xsA : Nat
  /-- XS_B, the second (right) shift amount of xorshift32. -/
  xsB : Nat
  /-- XS_C, the third (left) shift amount of xorshift32. -/
  xsC : Nat
deriving DecidableEq, Repr

/-- The default parameter set P0 of R9. Every value is R9's "P0 default" column but `base`, which R9 leaves OPEN to the
platform: DESIGN CHOICE 0 (notes/assumptions/2.md), unsafe for a statement about the reset state that uses a bus
address other than through `base`. -/
def Config.p0 : Config where
  roundsMax := 16
  keyCap := 256
  bufCap := 1024
  base := 0
  hashInit := 5381#32
  hashMul := 33#32
  mixS := 0xA5A5A5A5#32
  mixP := 0x3C3C3C3C#32
  lcgA := 1664525#32
  lcgC := 1013904223#32
  rcSeed := 0x243F6A88#32
  rcMul := 2654435761#32
  fnvBasis := 0x811C9DC5#32
  fnvPrime := 0x01000193#32
  golden := 0x9E3779B9#32
  xsA := 13
  xsB := 17
  xsC := 5

end Sys2Proof
end

