-- ==== Sys2Proof/Syntax.lean ====
section
/-! DEFINITION. The command set of SONATA-CE: one constructor per row of spec/opcode_table.json (spec/30_encoding.md
R72). A command has no operand field but the T bit of the four traceable commands (R71, R73). -/

namespace Sys2Proof

/-- The 22 commands (R72). The Bool of a traceable command is the T bit of the command word: true asks for trace
records (R73). -/
inductive Instr where
  /-- SYS.NOP, 0x00 (47_system R310). -/
  | sysNop
  /-- SYS.RST, 0x01 (47_system R311). -/
  | sysRst
  /-- SBOX.GEN, 0x10 (40_sbox R113). -/
  | sboxGen
  /-- SBOX.INV, 0x11 (40_sbox R114). -/
  | sboxInv
  /-- SBOX.FWD, 0x12 (40_sbox R115). -/
  | sboxFwd
  /-- SBOX.BWD, 0x13 (40_sbox R116). -/
  | sboxBwd
  /-- PBOX.GEN, 0x20 (41_pbox R137). -/
  | pboxGen
  /-- PBOX.INV, 0x21 (41_pbox R138). -/
  | pboxInv
  /-- PBOX.FWD, 0x22 (41_pbox R139). -/
  | pboxFwd
  /-- PBOX.BWD, 0x23 (41_pbox R140). -/
  | pboxBwd
  /-- KS.NORM, 0x30 (42_key_schedule R172). -/
  | ksNorm
  /-- KS.RC16, 0x31 (42_key_schedule R173). -/
  | ksRc16
  /-- KS.SUBK, 0x32 (42_key_schedule R174). -/
  | ksSubk
  /-- KS.CONST, 0x33 (42_key_schedule R175). -/
  | ksConst
  /-- RND.FWD, 0x40 (43_round R217). -/
  | rndFwd (t : Bool)
  /-- RND.INV, 0x41 (43_round R218). -/
  | rndInv (t : Bool)
  /-- BLK.ENC, 0x50 (44_block_engine R246). -/
  | blkEnc (t : Bool)
  /-- BLK.DEC, 0x51 (44_block_engine R247). -/
  | blkDec (t : Bool)
  /-- CBC.ENC, 0x60 (45_cbc R269). -/
  | cbcEnc
  /-- CBC.DEC, 0x61 (45_cbc R270). -/
  | cbcDec
  /-- AVAL.PT, 0x70 (46_avalanche R295). -/
  | avalPt
  /-- AVAL.KEY, 0x71 (46_avalanche R296). -/
  | avalKey
deriving DecidableEq, Repr

/-- The 22 commands in the order of R72's table, the traceable ones with T = 0. -/
def Instr.all : List Instr :=
  [.sysNop, .sysRst, .sboxGen, .sboxInv, .sboxFwd, .sboxBwd, .pboxGen, .pboxInv, .pboxFwd, .pboxBwd,
   .ksNorm, .ksRc16, .ksSubk, .ksConst, .rndFwd false, .rndInv false, .blkEnc false, .blkDec false,
   .cbcEnc, .cbcDec, .avalPt, .avalKey]

/-- The OP column of R72. -/
def Instr.opcode : Instr → Byte
  | .sysNop => 0x00#8
  | .sysRst => 0x01#8
  | .sboxGen => 0x10#8
  | .sboxInv => 0x11#8
  | .sboxFwd => 0x12#8
  | .sboxBwd => 0x13#8
  | .pboxGen => 0x20#8
  | .pboxInv => 0x21#8
  | .pboxFwd => 0x22#8
  | .pboxBwd => 0x23#8
  | .ksNorm => 0x30#8
  | .ksRc16 => 0x31#8
  | .ksSubk => 0x32#8
  | .ksConst => 0x33#8
  | .rndFwd _ => 0x40#8
  | .rndInv _ => 0x41#8
  | .blkEnc _ => 0x50#8
  | .blkDec _ => 0x51#8
  | .cbcEnc => 0x60#8
  | .cbcDec => 0x61#8
  | .avalPt => 0x70#8
  | .avalKey => 0x71#8

/-- The T bit the command carries: 0 on a command without one. -/
def Instr.traceBit : Instr → Bool
  | .sysNop => false
  | .sysRst => false
  | .sboxGen => false
  | .sboxInv => false
  | .sboxFwd => false
  | .sboxBwd => false
  | .pboxGen => false
  | .pboxInv => false
  | .pboxFwd => false
  | .pboxBwd => false
  | .ksNorm => false
  | .ksRc16 => false
  | .ksSubk => false
  | .ksConst => false
  | .rndFwd t => t
  | .rndInv t => t
  | .blkEnc t => t
  | .blkDec t => t
  | .cbcEnc => false
  | .cbcDec => false
  | .avalPt => false
  | .avalKey => false

end Sys2Proof
end

