-- ==== Sys2Proof/WellFormed.lean ====
section
/-! DEFINITION. Well-formedness: of a command (its opcode is one of R72's and its T bit is legal on it, R73), of a
command word (spec/30_encoding.md R74) and of a parameter set (spec/00_scope.md R9). -/

namespace Sys2Proof

/-- The OP values of R72's table. -/
def legalOpcodes : List Byte :=
  [0x00#8, 0x01#8, 0x10#8, 0x11#8, 0x12#8, 0x13#8, 0x20#8, 0x21#8, 0x22#8, 0x23#8, 0x30#8, 0x31#8, 0x32#8, 0x33#8,
   0x40#8, 0x41#8, 0x50#8, 0x51#8, 0x60#8, 0x61#8, 0x70#8, 0x71#8]

/-- The OP values whose T column in R72 says yes: RND.FWD, RND.INV, BLK.ENC, BLK.DEC (R73). -/
def traceOpcodes : List Byte := [0x40#8, 0x41#8, 0x50#8, 0x51#8]

/-- The opcode is one of R72's 22 values. -/
def opcodeKnown (op : Byte) : Bool := legalOpcodes.contains op

/-- T = 1 stands only on a command that has a trace (R73). -/
def traceAllowed (op : Byte) (t : Bool) : Bool := !t || traceOpcodes.contains op

/-- Bits 31:9 of a command word are all 0 (R74). -/
def reservedClear (w : Word) : Bool := w >>> 9 == 0#32

/-- R74: a command word is legal when none of its three conditions makes it illegal. -/
def legalWord (w : Word) : Bool :=
  reservedClear w && opcodeKnown (w.extractLsb' 0 8) && traceAllowed (w.extractLsb' 0 8) (w.getLsbD 8)

/-- A command is well formed when its opcode and its T bit are what R72 allows. The constructors of `Instr` admit no
other command; the check is what the encoder's words are held to. -/
def Instr.wellFormed (i : Instr) : Bool := opcodeKnown i.opcode && traceAllowed i.opcode i.traceBit

/-- ROUNDS_MAX: 1 ≤ ROUNDS_MAX ≤ 64 (R9). -/
def Config.roundsMaxOk (c : Config) : Bool := 1 ≤ c.roundsMax && c.roundsMax ≤ 64

/-- KEY_CAP: 0 ≤ KEY_CAP ≤ 1024 (R9). -/
def Config.keyCapOk (c : Config) : Bool := c.keyCap ≤ 1024

/-- BUF_CAP: a multiple of 8, 8 ≤ BUF_CAP ≤ 4096 (R9). -/
def Config.bufCapOk (c : Config) : Bool := c.bufCap % 8 == 0 && 8 ≤ c.bufCap && c.bufCap ≤ 4096

/-- BASE: a multiple of 4 (R9). -/
def Config.baseOk (c : Config) : Bool := c.base % 4 == 0

/-- MIX_S ≠ MIX_P (R9). -/
def Config.mixOk (c : Config) : Bool := c.mixS != c.mixP

/-- RC_MUL is odd (R9). -/
def Config.rcMulOk (c : Config) : Bool := c.rcMul.getLsbD 0

/-- GOLDEN is non-zero (R9). -/
def Config.goldenOk (c : Config) : Bool := c.golden != 0#32

/-- XS_A, XS_B, XS_C are in 1..31 (R9). -/
def Config.shiftsOk (c : Config) : Bool :=
  1 ≤ c.xsA && c.xsA ≤ 31 && 1 ≤ c.xsB && c.xsB ≤ 31 && 1 ≤ c.xsC && c.xsC ≤ 31

/-- The constraints of R9, all together. -/
def Config.valid (c : Config) : Bool :=
  c.roundsMaxOk && c.keyCapOk && c.bufCapOk && c.baseOk && c.mixOk && c.rcMulOk && c.goldenOk && c.shiftsOk

end Sys2Proof
end

