-- ==== Sys2Proof/Decode.lean ====
section
/-! DEFINITION. The decoder and, after it, the encoder of command words (spec/30_encoding.md R70 to R74, R79). The
decoder is total on all 2^32 words (R79) and rejects a word by the first condition of R74 that makes it illegal. -/

namespace Sys2Proof

/-- Why a command word is illegal: the three conditions of R74, in its order. -/
inductive IllegalWord where
  /-- Bits 31:9 are not all 0. -/
  | reservedBits
  /-- OP is not one of the 22 values of R72. -/
  | unknownOpcode
  /-- T = 1 and the command's T column says no. -/
  | traceNotAllowed
deriving DecidableEq, Repr

/-- The OP field, bits 7:0 (R70). -/
def opField (w : Word) : Byte := w.extractLsb' 0 8

/-- The T field, bit 8 (R70). -/
def traceField (w : Word) : Bool := w.getLsbD 8

/-- The reserved field, bits 31:9 (R70). -/
def reservedField (w : Word) : BitVec 23 := w.extractLsb' 9 23

/-- A command without a trace: legal with T = 0 only (R73, R74). -/
def untraced (t : Bool) (i : Instr) : Except IllegalWord Instr :=
  if t then .error .traceNotAllowed else .ok i

/-- The command of an opcode and a T bit (R72). -/
def decodeFields (op : Byte) (t : Bool) : Except IllegalWord Instr :=
  match op.toNat with
  | 0x00 => untraced t .sysNop
  | 0x01 => untraced t .sysRst
  | 0x10 => untraced t .sboxGen
  | 0x11 => untraced t .sboxInv
  | 0x12 => untraced t .sboxFwd
  | 0x13 => untraced t .sboxBwd
  | 0x20 => untraced t .pboxGen
  | 0x21 => untraced t .pboxInv
  | 0x22 => untraced t .pboxFwd
  | 0x23 => untraced t .pboxBwd
  | 0x30 => untraced t .ksNorm
  | 0x31 => untraced t .ksRc16
  | 0x32 => untraced t .ksSubk
  | 0x33 => untraced t .ksConst
  | 0x40 => .ok (.rndFwd t)
  | 0x41 => .ok (.rndInv t)
  | 0x50 => .ok (.blkEnc t)
  | 0x51 => .ok (.blkDec t)
  | 0x60 => untraced t .cbcEnc
  | 0x61 => untraced t .cbcDec
  | 0x70 => untraced t .avalPt
  | 0x71 => untraced t .avalKey
  | _ => .error .unknownOpcode

/-- The decoder (R74, R79 step 2): the command of a word, or why the word is illegal. -/
def decode (w : Word) : Except IllegalWord Instr :=
  if reservedField w == 0#23 then decodeFields (opField w) (traceField w) else .error .reservedBits

/-- A word with the T bit set when asked (R70: a command word is OP + 256*T). -/
def withTrace (op : Word) (t : Bool) : Word := if t then op ||| 0x00000100#32 else op

/-- The encoder: the word each command rule of spec/ gives under "Encoding". -/
def encode : Instr → Word
  | .sysNop => 0x00000000#32
  | .sysRst => 0x00000001#32
  | .sboxGen => 0x00000010#32
  | .sboxInv => 0x00000011#32
  | .sboxFwd => 0x00000012#32
  | .sboxBwd => 0x00000013#32
  | .pboxGen => 0x00000020#32
  | .pboxInv => 0x00000021#32
  | .pboxFwd => 0x00000022#32
  | .pboxBwd => 0x00000023#32
  | .ksNorm => 0x00000030#32
  | .ksRc16 => 0x00000031#32
  | .ksSubk => 0x00000032#32
  | .ksConst => 0x00000033#32
  | .rndFwd t => withTrace 0x00000040#32 t
  | .rndInv t => withTrace 0x00000041#32 t
  | .blkEnc t => withTrace 0x00000050#32 t
  | .blkDec t => withTrace 0x00000051#32 t
  | .cbcEnc => 0x00000060#32
  | .cbcDec => 0x00000061#32
  | .avalPt => 0x00000070#32
  | .avalKey => 0x00000071#32

/-- The command the decoder reads from a word numbered as spec/opcode_table.json numbers its bits. A command is one
32-bit word (R70); the port has no byte order (20_memory R56), so the word reaches the decoder as it stands. -/
def decodeTableWord (nbits w : Nat) : Option Instr :=
  match decode (BitVec.ofNat 32 (w % 2 ^ nbits)) with
  | .ok i => some i
  | .error _ => none

end Sys2Proof
end

