-- ==== Sys2Proof/Machine/State.lean ====
section
/-! DEFINITION. The machine state of SONATA-CE as plain data (spec/10_state.md R22 to R38), the state after reset, and
the reasons a step can stop. -/

namespace Sys2Proof.Machine

/-- The fault codes of STATUS.ERR: exactly the ten values of 60_exceptions R321 (93_implementation_defined U17). A fault
of the spec is no stop of the model: taking it is a next state (R324). -/
inductive FaultCode where
  /-- 0 NONE. -/
  | noFault
  /-- 1 ILLEGAL_CMD. -/
  | illegalCmd
  /-- 2 BAD_ROUNDS. -/
  | badRounds
  /-- 3 BAD_KEYLEN. -/
  | badKeylen
  /-- 4 BAD_LEN. -/
  | badLen
  /-- 5 FORMAT. -/
  | format
  /-- 6 BAD_PAD. -/
  | badPad
  /-- 7 NOT_BIJECTION. -/
  | notBijection
  /-- 8 NOT_READY. -/
  | notReady
  /-- 9 BAD_INDEX. -/
  | badIndex
deriving DecidableEq, Repr

/-- The STATUS register by field (R24). The reserved bits 31:16 hold nothing and read as 0. -/
structure Status where
  /-- Bit 0: a command is executing. -/
  busy : Bool
  /-- Bit 1: the most recent command completed without fault. -/
  done : Bool
  /-- Bit 2: SBOX holds a verified bijection over 0..15. -/
  sv : Bool
  /-- Bit 3: ISBOX is the positional inverse of the present SBOX. -/
  isv : Bool
  /-- Bit 4: PBOX holds a verified bijection over 0..63. -/
  pv : Bool
  /-- Bit 5: IPBOX is the positional inverse of the present PBOX. -/
  ipv : Bool
  /-- Bit 6: RK[0..ROUNDS) holds the subkeys for the present KMEM, KEYLEN, ROUNDS and SBOX. -/
  kv : Bool
  /-- Bit 7: RCON[0..ROUNDS) and MASK[0..ROUNDS) hold the constants and masks for the present KMEM, KEYLEN, ROUNDS. -/
  cv : Bool
  /-- Bits 15:8: the recorded fault. -/
  err : FaultCode
deriving DecidableEq, Repr

/-- One memory of 10_state.md: (element index, value) pairs, indices strictly rising, no value equal to what an unlisted
element reads as (`Memory.wf` in Ops.lean); notes/assumptions/8.md. -/
abbrev Memory := List Host.Cell

/-- What an unlisted element of a memory reads as: 0, the value every element has after reset (R38). -/
def Memory.unlisted : Byte := 0#8

/-- What can happen at the port of the block: the host accesses of 20_memory R52 and R53, and the hardware reset input of
70_reset R350(a). `width` is the width of the access in bytes and `addr` its bus address; the only width the port
accepts is 4 (R54). notes/assumptions/3.md, 12.md, 13.md and 14.md. -/
inductive PortEvent where
  | read (width addr : Nat)
  | write (width addr : Nat) (data : Word)
  | reset
deriving DecidableEq, Repr

/-- The host side of the port, the MODEL's own state: what the host does next, and what it was answered last. -/
structure Port where
  /-- The accesses the host makes next, oldest first (notes/assumptions/3.md). -/
  pending : List PortEvent
  /-- The value returned to the last access when it was a read (notes/assumptions/4.md). -/
  response : Option Word
deriving DecidableEq, Repr

/-- The whole state: the instance's parameter record (no step changes it), the host side of the port, and every
register and memory of 10_state.md. CMD stores nothing (R23). -/
structure State where
  /-- The instance's parameters (00_scope R9), the model's own field. -/
  cfg : Config
  /-- The host side of the port, the model's own field. -/
  port : Port
  /-- STATUS (R24). -/
  status : Status
  /-- ROUNDS (R25). -/
  rounds : Word
  /-- KEYLEN (R25). -/
  keylen : Word
  /-- ILEN (R25). -/
  ilen : Word
  /-- RIDX (R25). -/
  ridx : Word
  /-- BITIDX (R25). -/
  bitidx : Word
  /-- OLEN (R26). -/
  olen : Word
  /-- FINFO (R26; 60_exceptions R323). -/
  finfo : Word
  /-- AV_DIFF (R26). -/
  avDiff : Word
  /-- AV_TOTAL (R26). -/
  avTotal : Word
  /-- AV_PCT (R26). -/
  avPct : Word
  /-- KMEM, KEY_CAP bytes (R29). -/
  kmem : Memory
  /-- IV, 8 bytes (R30). -/
  iv : Memory
  /-- SBOX, 16 entries of 8 bits (R31). -/
  sbox : Memory
  /-- ISBOX, 16 entries of 8 bits (R31). -/
  isbox : Memory
  /-- PBOX, 64 entries of 8 bits (R32). -/
  pbox : Memory
  /-- IPBOX, 64 entries of 8 bits (R32). -/
  ipbox : Memory
  /-- NKEY, 16 bytes (R33). -/
  nkey : Memory
  /-- RC16, 16 bytes (R33). -/
  rc16 : Memory
  /-- RK, ROUNDS_MAX entries of 8 bytes, RK[r][k] at index 8r + k (R34). -/
  rk : Memory
  /-- RCON, ROUNDS_MAX entries of 8 bytes, RCON[r][k] at index 8r + k (R34). -/
  rcon : Memory
  /-- MASK, ROUNDS_MAX bytes (R34). -/
  mask : Memory
  /-- IBUF, BUF_CAP bytes (R35). -/
  ibuf : Memory
  /-- OBUF, BUF_CAP bytes (R35). -/
  obuf : Memory
  /-- CNT, BUF_CAP entries of 8 bits (R35). -/
  cnt : Memory
  /-- TRACE, ROUNDS_MAX records of 6 snapshots of 8 bytes, TRACE[r][s][k] at index 48r + 8s + k (R36). -/
  trace : Memory
deriving DecidableEq, Repr

/-- Why an access is a bus error (20_memory R55). -/
inductive BusError where
  /-- The access is not 32 bits wide (R54). -/
  | width
  /-- The offset is not a multiple of 4 (R54). -/
  | misaligned
  /-- The address is outside the register window, at an offset not in R51's table, or beyond a region's valid indices. -/
  | unmapped
  /-- A write to a location R51 marks RO. -/
  | readOnly
  /-- Any access but a read of STATUS while STATUS.BUSY = 1 (70_reset R360). -/
  | busy
deriving DecidableEq, Repr

/-- Outcomes in which the machine stops with a fault: none. A command has exactly the outcomes ignored, completed and
faulted, all three with a described next state (60_exceptions R320, R324, "There is no fourth outcome"); see
notes/assumptions/6.md. Nothing raises it, which is safe. -/
inductive Fault where
deriving DecidableEq, Repr

/-- Why a step is refused. -/
inductive Refusal where
  /-- Raised only by an arm of `exec` whose command has no meaning yet; no arm does. Safe. -/
  | notModelled (mnemonic : String)
  /-- Raised by `step` for a host access that is a bus error: "A model gives a bus-error access no step (the access is
  refused), which errs toward unprovable" (20_memory R55; 93_implementation_defined U18). Safe. -/
  | busError (cause : BusError)
deriving DecidableEq, Repr

/-- STATUS after reset: 0x00000000 (70_reset R351). -/
def Status.reset : Status where
  busy := false
  done := false
  sv := false
  isv := false
  pv := false
  ipv := false
  kv := false
  cv := false
  err := .noFault

/-- The state after either reset (10_state R38, 70_reset R351) of the instance with parameters `cfg`, with the host side
of the port as it stands: every register, flag and memory element is 0. -/
def State.resetOf (cfg : Config) (port : Port) : State where
  cfg := cfg
  port := port
  status := Status.reset
  rounds := 0#32
  keylen := 0#32
  ilen := 0#32
  ridx := 0#32
  bitidx := 0#32
  olen := 0#32
  finfo := 0#32
  avDiff := 0#32
  avTotal := 0#32
  avPct := 0#32
  kmem := []
  iv := []
  sbox := []
  isbox := []
  pbox := []
  ipbox := []
  nkey := []
  rc16 := []
  rk := []
  rcon := []
  mask := []
  ibuf := []
  obuf := []
  cnt := []
  trace := []

/-- The machine right after reset: an instance under the default parameter set P0 (00_scope R9), nothing pending at its
port and nothing answered yet. -/
def State.reset : State := State.resetOf Config.p0 { pending := [], response := none }

end Sys2Proof.Machine
end

