-- ==== Sys2Proof/Machine/Ops.lean ====
section
/-! DEFINITION. The named operations every rule is written over: reading and writing the elements of a memory, taking a
fault and leaving the halted state by reset (spec/60_exceptions.md R324, R327), and running one command through its
ordered checks (00_scope R18, 30_encoding R79, 60_exceptions R320, R325, R326). -/

namespace Sys2Proof.Machine

/-! ## Memories -/

/-- The value of element `i` of a memory. -/
def Memory.read : Memory → Nat → Byte
  | [], _ => Memory.unlisted
  | (k, v) :: rest, i => if k = i then v else Memory.read rest i

/-- Element `i` takes the value `v`. The canonical form is kept: indices rise strictly and no entry holds the value an
unlisted element reads as. -/
def Memory.write : Memory → Nat → Byte → Memory
  | [], i, v => if v = Memory.unlisted then [] else [(i, v)]
  | (k, w) :: rest, i, v =>
    if i < k then (if v = Memory.unlisted then (k, w) :: rest else (i, v) :: (k, w) :: rest)
    else if i = k then (if v = Memory.unlisted then rest else (i, v) :: rest)
    else (k, w) :: Memory.write rest i v

/-- The byte string of the `n` elements from `i` on: `M[i..i+n)` (R16). -/
def Memory.slice (m : Memory) (i n : Nat) : Bytes := (List.range n).map fun j => m.read (i + j)

/-- Elements from `i` on take the bytes of a string in order; every other element keeps its value. -/
def Memory.writeBytes : Memory → Nat → Bytes → Memory
  | m, _, [] => m
  | m, i, b :: bs => Memory.writeBytes (m.write i b) (i + 1) bs

/-- The canonical form from index `lo` on. -/
def Memory.wfFrom : Nat → Memory → Bool
  | _, [] => true
  | lo, (k, v) :: rest => decide (lo ≤ k) && v != Memory.unlisted && Memory.wfFrom (k + 1) rest

/-- The canonical form of a memory: indices strictly rising, no entry equal to what an unlisted element reads as. -/
def Memory.wf (m : Memory) : Bool := Memory.wfFrom 0 m

/-- Every listed element lies within the memory's `n` elements. -/
def Memory.within (n : Nat) (m : Memory) : Bool := m.all fun c => decide (c.1 < n)

/-! ## Faults and reset -/

/-- The engine is halted exactly when STATUS.ERR ≠ 0 (R325). -/
def State.halted (s : State) : Bool := s.status.err != FaultCode.noFault

/-- Fault entry, `raise Fault(code, info)` (R324): ERR, FINFO, DONE and BUSY change, and nothing else. -/
def State.takeFault (s : State) (code : FaultCode) (info : Word) : State :=
  { s with status := { s.status with err := code, done := false, busy := false }, finfo := info }

/-- The one way out of the halted state (R327): the reset state of the same instance. The host side of the port is no
part of the block and stays (notes/assumptions/10.md). -/
def State.toReset (s : State) : State := State.resetOf s.cfg s.port

/-- Completion of a command (R79 step 3): STATUS.DONE <- 1. -/
def State.complete (s : State) : State := { s with status := { s.status with done := true } }

/-! ## Running a command -/

/-- What a failing check reports: the fault code and the FINFO value of R321. -/
structure FaultRecord where
  code : FaultCode
  info : Word
deriving DecidableEq, Repr

/-- The checks of a command, in order; the first that fails is the one reported and no later one is made (R18, R326). -/
def firstFailure : List (Option FaultRecord) → Option FaultRecord
  | [] => none
  | some f :: _ => some f
  | none :: rest => firstFailure rest

/-- One command on state `s` (R79, R320): a halted engine ignores it; a failing check is taken as a fault and changes
nothing else (R324); otherwise the state `effect`, the rule's Effect and Flags on `s`, is completed. -/
def runCommand (s : State) (checks : List (Option FaultRecord)) (effect : State) :
    Host.Outcome State Fault Refusal :=
  if s.halted then .next s
  else
    match firstFailure checks with
    | some f => .next (s.takeFault f.code f.info)
    | none => .next effect.complete

/-- An illegal command word (R74, R79 steps 1 and 2): ignored by a halted engine, otherwise `Fault(ILLEGAL_CMD, w)` with
`w` the whole word. -/
def State.illegalCommand (s : State) (w : Word) : State :=
  if s.halted then s else s.takeFault .illegalCmd w

end Sys2Proof.Machine
end

