-- ==== Sys2Proof/Machine/Flags.lean ====
section
/-! DEFINITION. The STATUS word (spec/10_state.md R24) and every event that changes a valid flag (R28). -/

namespace Sys2Proof.Machine

/-- The value of STATUS.ERR for each fault code (60_exceptions R321). -/
def FaultCode.toByte : FaultCode → Byte
  | .noFault => 0#8
  | .illegalCmd => 1#8
  | .badRounds => 2#8
  | .badKeylen => 3#8
  | .badLen => 4#8
  | .format => 5#8
  | .badPad => 6#8
  | .notBijection => 7#8
  | .notReady => 8#8
  | .badIndex => 9#8

/-- A flag at its bit position of a 32-bit word. -/
def flagBit (b : Bool) (i : Nat) : Word := if b then 1#32 <<< i else 0#32

/-- The STATUS word the host reads (R24): the flags at bits 0 to 7, ERR at bits 15:8, bits 31:16 zero. -/
def Status.word (st : Status) : Word :=
  flagBit st.busy 0 ||| flagBit st.done 1 ||| flagBit st.sv 2 ||| flagBit st.isv 3 ||| flagBit st.pv 4 |||
    flagBit st.ipv 5 ||| flagBit st.kv 6 ||| flagBit st.cv 7 ||| (st.err.toByte.zeroExtend 32 <<< 8)

/-- The events of R28's table that change a valid flag, but reset, which clears all six with everything else. -/
inductive FlagEvent where
  /-- Host write to any KMEM element or to KEYLEN. -/
  | keyWrite
  /-- Host write to ROUNDS. -/
  | roundsWrite
  /-- Host write to any SBOX element. -/
  | sboxWrite
  /-- Host write to any PBOX element. -/
  | pboxWrite
  /-- SBOX.GEN. -/
  | sboxGen
  /-- SBOX.INV (success). -/
  | sboxInv
  /-- PBOX.GEN. -/
  | pboxGen
  /-- PBOX.INV (success). -/
  | pboxInv
  /-- KS.SUBK. -/
  | ksSubk
  /-- KS.CONST. -/
  | ksConst
  /-- Regen, run by BLK.*, CBC.* and AVAL.* (44_block_engine R245). -/
  | regen
deriving DecidableEq, Repr

/-- The rows of R28's table. -/
def Status.flags (st : Status) : FlagEvent → Status
  | .keyWrite => { st with sv := false, isv := false, pv := false, ipv := false, kv := false, cv := false }
  | .roundsWrite => { st with kv := false, cv := false }
  | .sboxWrite => { st with sv := false, isv := false, kv := false }
  | .pboxWrite => { st with pv := false, ipv := false }
  | .sboxGen => { st with sv := true, isv := false, kv := false }
  | .sboxInv => { st with sv := true, isv := true }
  | .pboxGen => { st with pv := true, ipv := false }
  | .pboxInv => { st with pv := true, ipv := true }
  | .ksSubk => { st with kv := true }
  | .ksConst => { st with cv := true }
  | .regen => { st with sv := true, isv := true, pv := true, ipv := true, kv := true, cv := true }

/-- The valid flags after an event of R28. -/
def State.flagEvent (s : State) (e : FlagEvent) : State := { s with status := s.status.flags e }

/-- A command that uses guarded memories checks their flags in the order its rule lists them; the first that is 0 is
reported by its bit number in STATUS (10_state R27; 60_exceptions R321 row 8). -/
def checkReady : List (Bool × Nat) → Option FaultRecord
  | [] => none
  | (flag, bit) :: rest => if flag then checkReady rest else some ⟨.notReady, BitVec.ofNat 32 bit⟩

/-- The bit number of SV in STATUS (R24). -/
def svBit : Nat := 2
/-- The bit number of ISV in STATUS (R24). -/
def isvBit : Nat := 3
/-- The bit number of PV in STATUS (R24). -/
def pvBit : Nat := 4
/-- The bit number of IPV in STATUS (R24). -/
def ipvBit : Nat := 5
/-- The bit number of KV in STATUS (R24). -/
def kvBit : Nat := 6
/-- The bit number of CV in STATUS (R24). -/
def cvBit : Nat := 7

end Sys2Proof.Machine
end

