-- ==== Sys2Proof/Machine/Operands.lean ====
section
/-! DEFINITION. The notation of byte strings (spec/00_scope.md R13 to R15), the operand byte strings and tables the
commands read from the state (10_state R29 to R35), and the operand checks with the fault each raises (60_exceptions
R321). -/

namespace Sys2Proof.Machine

/-! ## Byte strings -/

/-- Byte `i` of a byte string (R13). A rule uses it inside the string only; beyond it the total function answers 0. -/
def byteAt (s : Bytes) (i : Nat) : Byte := s.getD i 0#8

/-- `s ^ t`, the bytewise XOR of two strings of equal length (R13). -/
def xorBytes (s t : Bytes) : Bytes := List.zipWith (· ^^^ ·) s t

/-- `Bit(s, i)`, MSB-first: bit 7 − i mod 8 of byte i div 8 (R14). The one way a rule addresses a bit of a byte string
(20_memory R58). -/
def bitAt (s : Bytes) (i : Nat) : Bool := (byteAt s (i / 8)).getMsbD (i % 8)

/-- Eight bits as a byte, the first the most significant. -/
def packByte (f : Nat → Bool) : Byte := BitVec.ofBoolListBE [f 0, f 1, f 2, f 3, f 4, f 5, f 6, f 7]

/-- `FromBits(b)` for `8n` bits: the byte string whose `Bit(·, i)` is `b i` (R14). -/
def fromBits (n : Nat) (b : Nat → Bool) : Bytes := (List.range n).map fun j => packByte fun k => b (8 * j + k)

/-- The high nibble of a byte (R15). -/
def hiNib (b : Byte) : Nibble := b.extractLsb' 4 4

/-- The low nibble of a byte (R15). -/
def loNib (b : Byte) : Nibble := b.extractLsb' 0 4

/-- `nib(h, l)`, the byte of two nibbles (R15). -/
def nibPair (h l : Nibble) : Byte := h ++ l

/-- `swapn(b)`: the byte with its nibbles exchanged (R15). -/
def swapNib (b : Byte) : Byte := nibPair (loNib b) (hiNib b)

/-- `Nibbles(s)`, high nibble first (R15, 20_memory R61). -/
def nibbles : Bytes → List Nibble
  | [] => []
  | b :: bs => hiNib b :: loNib b :: nibbles bs

/-- `FromNibbles`, the inverse of `Nibbles` (R15), on an even number of nibbles. -/
def fromNibbles : List Nibble → Bytes
  | h :: l :: rest => nibPair h l :: fromNibbles rest
  | _ => []

/-- Consecutive 8-byte blocks of a string, `n` of them. -/
def blocks8 : Nat → Bytes → List Bytes
  | 0, _ => []
  | n + 1, s => s.take 8 :: blocks8 n (s.drop 8)

/-! ## Operands held in the state -/

/-- The key material `K`: KMEM[0..KEYLEN) (10_state R29). -/
def State.keyMaterial (s : State) : Bytes := s.kmem.slice 0 s.keylen.toNat

/-- The input byte string: IBUF[0..ILEN) (10_state R35). -/
def State.inputBytes (s : State) : Bytes := s.ibuf.slice 0 s.ilen.toNat

/-- The input block of a one-block command: IBUF[0..8). -/
def State.inputBlock (s : State) : Bytes := s.ibuf.slice 0 8

/-- The initialization vector: IV[0..8) (10_state R30). -/
def State.ivBytes (s : State) : Bytes := s.iv.slice 0 8

/-- The first `n` entries of a table memory as numbers. -/
def Memory.table (m : Memory) (n : Nat) : List Nat := (m.slice 0 n).map BitVec.toNat

/-- Table entries as the 8-bit elements that store them (10_state R31, R32). -/
def tableBytes (t : List Nat) : Bytes := t.map (BitVec.ofNat 8)

/-- SBOX[0..16) (10_state R31). -/
def State.sboxTable (s : State) : List Nat := s.sbox.table 16

/-- ISBOX[0..16) (10_state R31). -/
def State.isboxTable (s : State) : List Nat := s.isbox.table 16

/-- PBOX[0..64) (10_state R32). -/
def State.pboxTable (s : State) : List Nat := s.pbox.table 64

/-- IPBOX[0..64) (10_state R32). -/
def State.ipboxTable (s : State) : List Nat := s.ipbox.table 64

/-- The first `n` 8-byte rows of a schedule memory, row `r` its elements 8r..8r+7 (10_state R34). -/
def Memory.rows (m : Memory) (n : Nat) : List Bytes := (List.range n).map fun r => m.slice (8 * r) 8

/-- The output byte string: OBUF[0..OLEN) (10_state R35). -/
def State.outputBytes (s : State) : Bytes := s.obuf.slice 0 s.olen.toNat

/-- The output of a command: OBUF[0..len(bs)) takes the bytes, OLEN the length (10_state R26, R35). -/
def State.putOutput (s : State) (bs : Bytes) : State :=
  { s with obuf := s.obuf.writeBytes 0 bs, olen := BitVec.ofNat 32 bs.length }

/-! ## Operand checks -/

/-- `KEYLEN ≤ KEY_CAP`, else BAD_KEYLEN (10_state R29). -/
def State.checkKeylen (s : State) : Option FaultRecord :=
  if s.keylen.toNat ≤ s.cfg.keyCap then none else some ⟨.badKeylen, s.keylen⟩

/-- `1 ≤ ROUNDS ≤ ROUNDS_MAX`, else BAD_ROUNDS (42_key_schedule R165). -/
def State.checkRounds (s : State) : Option FaultRecord :=
  if 1 ≤ s.rounds.toNat ∧ s.rounds.toNat ≤ s.cfg.roundsMax then none else some ⟨.badRounds, s.rounds⟩

/-- `RIDX < ROUNDS`, else BAD_INDEX (43_round R217, R218). -/
def State.checkRidx (s : State) : Option FaultRecord :=
  if s.ridx.toNat < s.rounds.toNat then none else some ⟨.badIndex, s.ridx⟩

/-- `ILEN = 8`, else BAD_LEN: the one-block commands. -/
def State.checkBlockLen (s : State) : Option FaultRecord :=
  if s.ilen.toNat = 8 then none else some ⟨.badLen, s.ilen⟩

/-- `ILEN ≤ BUF_CAP`, else BAD_LEN: SBOX.FWD, SBOX.BWD, CBC.DEC. -/
def State.checkInputLen (s : State) : Option FaultRecord :=
  if s.ilen.toNat ≤ s.cfg.bufCap then none else some ⟨.badLen, s.ilen⟩

/-- `ILEN ≤ BUF_CAP − 8`, else BAD_LEN: CBC.ENC, AVAL.PT, AVAL.KEY (45_cbc R269). -/
def State.checkPadLen (s : State) : Option FaultRecord :=
  if s.ilen.toNat + 8 ≤ s.cfg.bufCap then none else some ⟨.badLen, s.ilen⟩

/-- `ILEN > 0` and `ILEN mod 8 = 0`, else FORMAT (45_cbc R267, R270). -/
def State.checkFormat (s : State) : Option FaultRecord :=
  if 0 < s.ilen.toNat ∧ s.ilen.toNat % 8 = 0 then none else some ⟨.format, s.ilen⟩

/-- `BITIDX < 8 · len`, else BAD_INDEX (46_avalanche R295, R296). -/
def State.checkBitidx (s : State) (len : Nat) : Option FaultRecord :=
  if s.bitidx.toNat < 8 * len then none else some ⟨.badIndex, s.bitidx⟩

end Sys2Proof.Machine
end

