-- ==== Sys2Proof/Machine/Sbox.lean ====
section
/-! DEFINITION. The units sbox_generator and sbox_inverse_lookup (spec/40_sbox.md): the function rules R101 to R111,
which the PBox generator shares, and the commands SBOX.GEN, SBOX.INV, SBOX.FWD, SBOX.BWD (R113 to R116). -/

namespace Sys2Proof.Machine

/-! ## Functions -/

/-- `KeyFold(K)`: the multiplicative hash of the key bytes in index order (R101). -/
def keyFold (c : Config) (k : Bytes) : Word :=
  k.foldl (fun h b => h * c.hashMul + b.zeroExtend 32) c.hashInit

/-- `TableSeed(K, mix) = KeyFold(K) ^ mix` (R102). -/
def tableSeed (c : Config) (k : Bytes) (mix : Word) : Word := keyFold c k ^^^ mix

/-- `LcgNext(x)`: one step of the linear-congruential generator modulo 2^32 (R103). -/
def lcgNext (c : Config) (x : Word) : Word := c.lcgA * x + c.lcgC

/-- Exchange entries `i` and `j` of a table. -/
def swapEntries (a : List Nat) (i j : Nat) : List Nat := (a.set i (a.getD j 0)).set j (a.getD i 0)

/-- The loop of `Shuffle` for the indices `i` downto 1: one draw, its high 16 bits reduced to 0..i, one swap (R104). -/
def shuffleFrom (c : Config) : Nat → Word → List Nat → List Nat
  | 0, _, a => a
  | i + 1, x, a =>
    shuffleFrom c i (lcgNext c x) (swapEntries a (i + 1) ((lcgNext c x >>> 16).toNat % (i + 2)))

/-- `Shuffle(n, seed)`: the Fisher–Yates shuffle of [0..n−1] (R104). -/
def shuffle (c : Config) (n : Nat) (seed : Word) : List Nat := shuffleFrom c (n - 1) seed (List.range n)

/-- `SboxGen(K) = Shuffle(16, TableSeed(K, MIX_S))` (R105). -/
def sboxGen (c : Config) (k : Bytes) : List Nat := shuffle c 16 (tableSeed c k c.mixS)

/-- The result of `TableInvert` (R108): the inverse, or the lowest index at which the table is no bijection. -/
inductive InvertResult where
  | ok (inv : List Nat)
  | fail (index : Nat)
deriving DecidableEq, Repr

/-- The loop of `TableInvert` from index `i` on: `rest` is what is left of the table, `inv` the inverse so far, `none` an
entry marked EMPTY (R108). -/
def invertFrom (n : Nat) : Nat → List Nat → List (Option Nat) → InvertResult
  | _, [], inv => .ok (inv.map fun e => e.getD 0)
  | i, v :: rest, inv =>
    if n ≤ v then .fail i
    else if (inv.getD v none).isSome then .fail i
    else invertFrom n (i + 1) rest (inv.set v (some i))

/-- `TableInvert(t, n)`, the positional inverse with validation (R108). -/
def tableInvert (t : List Nat) (n : Nat) : InvertResult := invertFrom n 0 t (List.replicate n none)

/-- `u where Ok(u) = r`. Used only where `r` is `Ok`: after the NOT_BIJECTION check, and in `DeriveParams`, where it cannot
fail (R107, R241); notes/assumptions/9.md. -/
def InvertResult.table : InvertResult → List Nat
  | .ok inv => inv
  | .fail _ => []

/-- The NOT_BIJECTION check: `TableInvert` is `Ok`, else the fault with the lowest offending index (R114; 41_pbox R138). -/
def InvertResult.check : InvertResult → Option FaultRecord
  | .ok _ => none
  | .fail i => some ⟨.notBijection, BitVec.ofNat 32 i⟩

/-- One nibble through a 16-entry table. -/
def subNibble (t : List Nat) (v : Nibble) : Nibble := BitVec.ofNat 4 (t.getD v.toNat 0)

/-- `SubNibbles(s, t)`: each byte's high and low nibble through the table (R111). -/
def subNibbles (s : Bytes) (t : List Nat) : Bytes :=
  s.map fun b => nibPair (subNibble t (hiNib b)) (subNibble t (loNib b))

/-! ## Commands -/

/-- SBOX.GEN (R113). -/
def execSboxGen (s : State) : Host.Outcome State Fault Refusal :=
  runCommand s [s.checkKeylen]
    ({ s with sbox := s.sbox.writeBytes 0 (tableBytes (sboxGen s.cfg s.keyMaterial)) }.flagEvent .sboxGen)

/-- SBOX.INV (R114). -/
def execSboxInv (s : State) : Host.Outcome State Fault Refusal :=
  runCommand s [(tableInvert s.sboxTable 16).check]
    ({ s with isbox := s.isbox.writeBytes 0 (tableBytes (tableInvert s.sboxTable 16).table) }.flagEvent .sboxInv)

/-- SBOX.FWD (R115). -/
def execSboxFwd (s : State) : Host.Outcome State Fault Refusal :=
  runCommand s [s.checkInputLen, checkReady [(s.status.sv, svBit)]]
    (s.putOutput (subNibbles s.inputBytes s.sboxTable))

/-- SBOX.BWD (R116). -/
def execSboxBwd (s : State) : Host.Outcome State Fault Refusal :=
  runCommand s [s.checkInputLen, checkReady [(s.status.isv, isvBit)]]
    (s.putOutput (subNibbles s.inputBytes s.isboxTable))

end Sys2Proof.Machine
end

