-- ==== Sys2Proof/Machine/KeySchedule.lean ====
section
/-! DEFINITION. The unit key_schedule_engine (spec/42_key_schedule.md): the subkey chain (R161 to R164), the constant and
mask generator (R166 to R170), and the commands KS.NORM, KS.RC16, KS.SUBK, KS.CONST (R172 to R175). -/

namespace Sys2Proof.Machine

/-! ## The subkey chain -/

/-- `NormalizeKey(K)`: 16 bytes, tiled or truncated; all zero for the empty key (R161). -/
def normalizeKey (k : Bytes) : Bytes :=
  if k.length = 0 then List.replicate 16 0#8 else (List.range 16).map fun i => byteAt k (i % k.length)

/-- One step of the multiplicative congruential generator of `RoundConstant16` (R162). -/
def rcNext (c : Config) (x : Word) : Word := x * c.rcMul

/-- `n` bytes of a generator: each byte is taken from the state after one more step. -/
def genBytes (next : Word → Word) (out : Word → Byte) : Nat → Word → Bytes
  | 0, _ => []
  | n + 1, x => out (next x) :: genBytes next out n (next x)

/-- A generator's state after `n` steps. -/
def genState (next : Word → Word) : Nat → Word → Word
  | 0, x => x
  | n + 1, x => genState next n (next x)

/-- The most significant byte of a word, `(x >> 24) & 0xFF`. -/
def topByte (x : Word) : Byte := x.extractLsb' 24 8

/-- The least significant byte of a word, `x & 0xFF`. -/
def lowByte (x : Word) : Byte := x.extractLsb' 0 8

/-- `RoundConstant16(r)` (R162). -/
def roundConstant16 (c : Config) (r : Word) : Bytes := genBytes (rcNext c) topByte 16 (c.rcSeed ^^^ r)

/-- `RotL128(s, n)`: circular left rotation of a 16-byte string, MSB-first (R163, 20_memory R60). -/
def rotL128 (s : Bytes) (n : Nat) : Bytes := fromBits 16 fun i => bitAt s ((i + n) % 128)

/-- The 16-byte schedule state after round `r` from the state before it (R164). -/
def scheduleStep (c : Config) (sbox : List Nat) (r : Nat) (st : Bytes) : Bytes :=
  xorBytes (subNibbles (rotL128 st ((7 * r + 3) % 128)) sbox) (roundConstant16 c (BitVec.ofNat 32 r))

/-- The eight even-indexed bytes of a schedule state (R164). -/
def evenBytes (st : Bytes) : Bytes := (List.range 8).map fun k => byteAt st (2 * k)

/-- The subkeys of `n` rounds from round `r` on; the state after each round carries forward (R164). -/
def subkeysFrom (c : Config) (sbox : List Nat) : Nat → Nat → Bytes → List Bytes
  | 0, _, _ => []
  | n + 1, r, st =>
    evenBytes (scheduleStep c sbox r st) :: subkeysFrom c sbox n (r + 1) (scheduleStep c sbox r st)

/-- `DeriveSubkeys(K, R, sbox)` (R164). -/
def deriveSubkeys (c : Config) (k : Bytes) (rounds : Nat) (sbox : List Nat) : List Bytes :=
  subkeysFrom c sbox rounds 0 (normalizeKey k)

/-! ## The constant and mask generator -/

/-- `Fnv1a(K)`: XOR the byte in, then multiply (R166). -/
def fnv1a (c : Config) (k : Bytes) : Word :=
  k.foldl (fun h b => (h ^^^ b.zeroExtend 32) * c.fnvPrime) c.fnvBasis

/-- The left half step of xorshift32. -/
def xorShl (x : Word) (n : Nat) : Word := x ^^^ (x <<< n)

/-- The right half step of xorshift32. -/
def xorShr (x : Word) (n : Nat) : Word := x ^^^ (x >>> n)

/-- `Xs32(x)`: one xorshift32 step (R167). -/
def xs32 (c : Config) (x : Word) : Word := xorShl (xorShr (xorShl x c.xsA) c.xsB) c.xsC

/-- `ConstSeed(K)`: FNV-1a XOR GOLDEN, and GOLDEN where that is 0 (R168). -/
def constSeed (c : Config) (k : Bytes) : Word :=
  if fnv1a c k ^^^ c.golden = 0#32 then c.golden else fnv1a c k ^^^ c.golden

/-- The constants of `n` rounds from generator state `x` on; one generator runs through all rounds (R169). -/
def constsFrom (c : Config) : Nat → Word → List Bytes
  | 0, _ => []
  | n + 1, x => genBytes (xs32 c) lowByte 8 x :: constsFrom c n (genState (xs32 c) 8 x)

/-- `DeriveRoundConsts8(K, R)` (R169). -/
def deriveRoundConsts8 (c : Config) (k : Bytes) (rounds : Nat) : List Bytes := constsFrom c rounds (constSeed c k)

/-- The mask of one round's constant: `const[0] XOR const[7] XOR 0xA5` (R170). -/
def roundMask (rcon : Bytes) : Byte := byteAt rcon 0 ^^^ byteAt rcon 7 ^^^ 0xA5#8

/-- `DeriveRoundMasks(RCON)` (R170). -/
def deriveRoundMasks (rcon : List Bytes) : Bytes := rcon.map roundMask

/-! ## Commands -/

/-- KS.NORM (R172). -/
def execKsNorm (s : State) : Host.Outcome State Fault Refusal :=
  runCommand s [s.checkKeylen] { s with nkey := s.nkey.writeBytes 0 (normalizeKey s.keyMaterial) }

/-- KS.RC16 (R173). -/
def execKsRc16 (s : State) : Host.Outcome State Fault Refusal :=
  runCommand s [] { s with rc16 := s.rc16.writeBytes 0 (roundConstant16 s.cfg s.ridx) }

/-- KS.SUBK (R174): with whatever verified table SBOX holds. -/
def execKsSubk (s : State) : Host.Outcome State Fault Refusal :=
  runCommand s [s.checkKeylen, s.checkRounds, checkReady [(s.status.sv, svBit)]]
    ({ s with
        rk := s.rk.writeBytes 0
          (deriveSubkeys s.cfg s.keyMaterial s.rounds.toNat s.sboxTable).flatten }.flagEvent .ksSubk)

/-- KS.CONST (R175). -/
def execKsConst (s : State) : Host.Outcome State Fault Refusal :=
  runCommand s [s.checkKeylen, s.checkRounds]
    ({ s with
        rcon := s.rcon.writeBytes 0 (deriveRoundConsts8 s.cfg s.keyMaterial s.rounds.toNat).flatten
        mask := s.mask.writeBytes 0
          (deriveRoundMasks (deriveRoundConsts8 s.cfg s.keyMaterial s.rounds.toNat)) }.flagEvent .ksConst)

end Sys2Proof.Machine
end

