-- ==== Sys2Proof/Machine/Pbox.lean ====
section
/-! DEFINITION. The units pbox_generator and pbox_inverse_permute (spec/41_pbox.md): the function rules R131 to R133 and
the commands PBOX.GEN, PBOX.INV, PBOX.FWD, PBOX.BWD (R137 to R140). -/

namespace Sys2Proof.Machine

/-! ## Functions -/

/-- `PboxGen(K) = Shuffle(64, TableSeed(K, MIX_P))` (R131). -/
def pboxGen (c : Config) (k : Bytes) : List Nat := shuffle c 64 (tableSeed c k c.mixP)

/-- `PermuteBits(s, p)`: source bit `i` goes to destination bit `p[i]`, both MSB-first; the bit at destination `d` is the
source bit whose entry is `d` (R133, R134). Defined by the rule for a bijective `p` only, which the PV and IPV flags
guarantee (notes/assumptions/9.md). -/
def permuteBits (s : Bytes) (p : List Nat) : Bytes := fromBits 8 fun d => bitAt s (p.idxOf d)

/-! ## Commands -/

/-- PBOX.GEN (R137). -/
def execPboxGen (s : State) : Host.Outcome State Fault Refusal :=
  runCommand s [s.checkKeylen]
    ({ s with pbox := s.pbox.writeBytes 0 (tableBytes (pboxGen s.cfg s.keyMaterial)) }.flagEvent .pboxGen)

/-- PBOX.INV (R138). -/
def execPboxInv (s : State) : Host.Outcome State Fault Refusal :=
  runCommand s [(tableInvert s.pboxTable 64).check]
    ({ s with ipbox := s.ipbox.writeBytes 0 (tableBytes (tableInvert s.pboxTable 64).table) }.flagEvent .pboxInv)

/-- PBOX.FWD (R139). -/
def execPboxFwd (s : State) : Host.Outcome State Fault Refusal :=
  runCommand s [s.checkBlockLen, checkReady [(s.status.pv, pvBit)]]
    (s.putOutput (permuteBits s.inputBlock s.pboxTable))

/-- PBOX.BWD (R140). -/
def execPboxBwd (s : State) : Host.Outcome State Fault Refusal :=
  runCommand s [s.checkBlockLen, checkReady [(s.status.ipv, ipvBit)]]
    (s.putOutput (permuteBits s.inputBlock s.ipboxTable))

end Sys2Proof.Machine
end

