-- ==== Sys2Proof/Machine/Round.lean ====
section
/-! DEFINITION. The units round_function_pipeline and inverse_round_pipeline (spec/43_round.md): the six stages (R202 to
R210), the round and its inverse (R211, R212) with their trace records (R213, R214), and the commands RND.FWD, RND.INV
(R217, R218). -/

namespace Sys2Proof.Machine

/-- A round-parameter set (R200). -/
structure RoundParams where
  sbox : List Nat
  isbox : List Nat
  pbox : List Nat
  ipbox : List Nat
  rk : List Bytes
  rcon : List Bytes
  mask : Bytes
deriving DecidableEq, Repr

/-- The subkey of round `r`. -/
def RoundParams.rkAt (p : RoundParams) (r : Nat) : Bytes := p.rk.getD r []

/-- The constant of round `r`. -/
def RoundParams.rconAt (p : RoundParams) (r : Nat) : Bytes := p.rcon.getD r []

/-- The mask of round `r`. -/
def RoundParams.maskAt (p : RoundParams) (r : Nat) : Byte := byteAt p.mask r

/-! ## The stages -/

/-- Substitute (R202). -/
def stSub (s : Bytes) (p : RoundParams) : Bytes := subNibbles s p.sbox

/-- Inverse Substitute (R202). -/
def stInvSub (s : Bytes) (p : RoundParams) : Bytes := subNibbles s p.isbox

/-- The 16 nibbles rearranged: nibble `q` of the result is nibble `f q` of the State, row-major (R201). -/
def moveNibbles (s : Bytes) (f : Nat → Nat) : Bytes :=
  fromNibbles ((List.range 16).map fun q => (nibbles s).getD (f q) 0#4)

/-- Offset: `m[4ρ + c] = n[4ρ + ((c + ρ) mod 4)]`, row ρ rotated left by ρ (R203). -/
def stOffset (s : Bytes) : Bytes := moveNibbles s fun q => 4 * (q / 4) + (q % 4 + q / 4) % 4

/-- Inverse Offset: `m[4ρ + c] = n[4ρ + ((c − ρ) mod 4)]`, row ρ rotated right by ρ (R204); `c − ρ` modulo 4 is
`c + 4 − ρ`. -/
def stInvOffset (s : Bytes) : Bytes := moveNibbles s fun q => 4 * (q / 4) + (q % 4 + (4 - q / 4)) % 4

/-- NibbleShuffle: byte `i` has its nibbles swapped when bit `i` (weight 2^i) of the mask is 1 (R206). -/
def stNibShuf (s : Bytes) (m : Byte) : Bytes := s.mapIdx fun i b => if m.getLsbD i then swapNib b else b

/-- AddRoundKey (R208). -/
def stAddKey (s : Bytes) (r : Nat) (p : RoundParams) : Bytes := xorBytes s (p.rkAt r)

/-- Transpose (R209). -/
def stTranspose (s : Bytes) (p : RoundParams) : Bytes := permuteBits s p.pbox

/-- Inverse Transpose (R209). -/
def stInvTranspose (s : Bytes) (p : RoundParams) : Bytes := permuteBits s p.ipbox

/-- AddConst (R210). -/
def stAddConst (s : Bytes) (r : Nat) (p : RoundParams) : Bytes := xorBytes s (p.rconAt r)

/-! ## The round, its inverse and their trace records -/

/-- The six snapshots of one round, in the order the stages are performed (R213, R214; 10_state R36). -/
structure RoundTrace where
  t0 : Bytes
  t1 : Bytes
  t2 : Bytes
  t3 : Bytes
  t4 : Bytes
  t5 : Bytes
deriving DecidableEq, Repr

/-- The stages of the forward round on State `s` (R211). -/
def roundFwdTrace (s : Bytes) (r : Nat) (p : RoundParams) : RoundTrace :=
  let t0 := stSub s p
  let t1 := stOffset t0
  let t2 := stNibShuf t1 (p.maskAt r)
  let t3 := stAddKey t2 r p
  let t4 := stTranspose t3 p
  let t5 := stAddConst t4 r p
  { t0 := t0, t1 := t1, t2 := t2, t3 := t3, t4 := t4, t5 := t5 }

/-- The stages of the inverse round on State `s` (R212). -/
def roundInvTrace (s : Bytes) (r : Nat) (p : RoundParams) : RoundTrace :=
  let u0 := stAddConst s r p
  let u1 := stInvTranspose u0 p
  let u2 := stAddKey u1 r p
  let u3 := stNibShuf u2 (p.maskAt r)
  let u4 := stInvOffset u3
  let u5 := stInvSub u4 p
  { t0 := u0, t1 := u1, t2 := u2, t3 := u3, t4 := u4, t5 := u5 }

/-- `RoundFwd(s, r, RP)` (R211). -/
def roundFwd (s : Bytes) (r : Nat) (p : RoundParams) : Bytes := (roundFwdTrace s r p).t5

/-- `RoundInv(s, r, RP)` (R212). -/
def roundInv (s : Bytes) (r : Nat) (p : RoundParams) : Bytes := (roundInvTrace s r p).t5

/-- A trace record as TRACE stores it: `TRACE[r][s][k]` at element 48r + 8s + k (10_state R36; 20_memory R51). -/
def RoundTrace.bytes (t : RoundTrace) : Bytes := t.t0 ++ t.t1 ++ t.t2 ++ t.t3 ++ t.t4 ++ t.t5

/-- TRACE[r] takes a record. -/
def State.putTrace (s : State) (r : Nat) (t : RoundTrace) : State :=
  { s with trace := s.trace.writeBytes (48 * r) t.bytes }

/-- A command with T = 0 leaves TRACE unchanged, one with T = 1 writes the record of round `r` (30_encoding R73). -/
def State.traceIf (s : State) (t : Bool) (r : Nat) (record : RoundTrace) : State :=
  if t then s.putTrace r record else s

/-! ## Commands -/

/-- The round-parameter set held in the table and schedule memories (R217, R218). -/
def State.roundParams (s : State) : RoundParams where
  sbox := s.sboxTable
  isbox := s.isboxTable
  pbox := s.pboxTable
  ipbox := s.ipboxTable
  rk := s.rk.rows s.cfg.roundsMax
  rcon := s.rcon.rows s.cfg.roundsMax
  mask := s.mask.slice 0 s.cfg.roundsMax

/-- RND.FWD (R217). -/
def execRndFwd (t : Bool) (s : State) : Host.Outcome State Fault Refusal :=
  runCommand s
    [s.checkRounds, s.checkRidx, s.checkBlockLen,
      checkReady [(s.status.sv, svBit), (s.status.pv, pvBit), (s.status.kv, kvBit), (s.status.cv, cvBit)]]
    ((s.putOutput (roundFwd s.inputBlock s.ridx.toNat s.roundParams)).traceIf t s.ridx.toNat
      (roundFwdTrace s.inputBlock s.ridx.toNat s.roundParams))

/-- RND.INV (R218). -/
def execRndInv (t : Bool) (s : State) : Host.Outcome State Fault Refusal :=
  runCommand s
    [s.checkRounds, s.checkRidx, s.checkBlockLen,
      checkReady [(s.status.isv, isvBit), (s.status.ipv, ipvBit), (s.status.kv, kvBit), (s.status.cv, cvBit)]]
    ((s.putOutput (roundInv s.inputBlock s.ridx.toNat s.roundParams)).traceIf t s.ridx.toNat
      (roundInvTrace s.inputBlock s.ridx.toNat s.roundParams))

end Sys2Proof.Machine
end

