-- ==== Sys2Proof/Machine/Block.lean ====
section
/-! DEFINITION. The block engine (spec/44_block_engine.md): `DeriveParams`, `EncBlock`, `DecBlock` (R241 to R243), `Regen`
(R245) and the commands BLK.ENC, BLK.DEC (R246, R247). -/

namespace Sys2Proof.Machine

/-- `DeriveParams(K, R)`: the round-parameter set of the key alone (R241). -/
def deriveParams (c : Config) (k : Bytes) (rounds : Nat) : RoundParams where
  sbox := sboxGen c k
  isbox := (tableInvert (sboxGen c k) 16).table
  pbox := pboxGen c k
  ipbox := (tableInvert (pboxGen c k) 64).table
  rk := deriveSubkeys c k rounds (sboxGen c k)
  rcon := deriveRoundConsts8 c k rounds
  mask := deriveRoundMasks (deriveRoundConsts8 c k rounds)

/-- `n` forward rounds from round `r` on, in increasing order (R242). -/
def fwdRounds (p : RoundParams) : Nat → Nat → Bytes → Bytes
  | 0, _, s => s
  | n + 1, r, s => fwdRounds p n (r + 1) (roundFwd s r p)

/-- The inverse rounds `n − 1` downto 0 (R243). -/
def invRounds (p : RoundParams) : Nat → Bytes → Bytes
  | 0, s => s
  | n + 1, s => invRounds p n (roundInv s n p)

/-- `EncBlock(b, R, K)` (R242). -/
def encBlock (c : Config) (b : Bytes) (rounds : Nat) (k : Bytes) : Bytes :=
  fwdRounds (deriveParams c k rounds) rounds 0 b

/-- `DecBlock(b, R, K)` (R243). -/
def decBlock (c : Config) (b : Bytes) (rounds : Nat) (k : Bytes) : Bytes :=
  invRounds (deriveParams c k rounds) rounds b

/-- The parameters `Regen` derives on a state: those of the key in KMEM and of ROUNDS (R245). -/
def State.keyParams (s : State) : RoundParams := deriveParams s.cfg s.keyMaterial s.rounds.toNat

/-- `Regen`: every table and schedule memory is written from the key and all six flags are set (R245). -/
def State.regen (s : State) : State :=
  { s with
    sbox := s.sbox.writeBytes 0 (tableBytes s.keyParams.sbox)
    isbox := s.isbox.writeBytes 0 (tableBytes s.keyParams.isbox)
    pbox := s.pbox.writeBytes 0 (tableBytes s.keyParams.pbox)
    ipbox := s.ipbox.writeBytes 0 (tableBytes s.keyParams.ipbox)
    rk := s.rk.writeBytes 0 s.keyParams.rk.flatten
    rcon := s.rcon.writeBytes 0 s.keyParams.rcon.flatten
    mask := s.mask.writeBytes 0 s.keyParams.mask
    status := s.status.flags .regen }

/-- The trace records of `n` forward rounds from round `r` on, written as the rounds run (R213, R246). -/
def State.traceFwd (p : RoundParams) : Nat → Nat → Bytes → State → State
  | 0, _, _, st => st
  | n + 1, r, b, st => State.traceFwd p n (r + 1) (roundFwd b r p) (st.putTrace r (roundFwdTrace b r p))

/-- The trace records of the inverse rounds `n − 1` downto 0, written as the rounds run (R214, R247). -/
def State.traceInv (p : RoundParams) : Nat → Bytes → State → State
  | 0, _, st => st
  | n + 1, b, st => State.traceInv p n (roundInv b n p) (st.putTrace n (roundInvTrace b n p))

/-- BLK.ENC (R246). -/
def execBlkEnc (t : Bool) (s : State) : Host.Outcome State Fault Refusal :=
  runCommand s [s.checkKeylen, s.checkRounds, s.checkBlockLen]
    (let out := s.regen.putOutput (encBlock s.cfg s.inputBlock s.rounds.toNat s.keyMaterial)
     if t then State.traceFwd s.keyParams s.rounds.toNat 0 s.inputBlock out else out)

/-- BLK.DEC (R247). -/
def execBlkDec (t : Bool) (s : State) : Host.Outcome State Fault Refusal :=
  runCommand s [s.checkKeylen, s.checkRounds, s.checkBlockLen]
    (let out := s.regen.putOutput (decBlock s.cfg s.inputBlock s.rounds.toNat s.keyMaterial)
     if t then State.traceInv s.keyParams s.rounds.toNat s.inputBlock out else out)

end Sys2Proof.Machine
end

