-- ==== Sys2Proof/Machine/Cbc.lean ====
section
/-! DEFINITION. The unit cbc_mode_chaining_with_padding (spec/45_cbc.md): padding and chaining (R261 to R267) and the
commands CBC.ENC, CBC.DEC (R269, R270). -/

namespace Sys2Proof.Machine

/-! ## Functions -/

/-- `Pad(P)`: p = 8 − len mod 8 bytes of value p are appended (R261). -/
def pad (m : Bytes) : Bytes := m ++ List.replicate (8 - m.length % 8) (BitVec.ofNat 8 (8 - m.length % 8))

/-- The blocks of `CbcEnc` in order; `prev` is the previous ciphertext block or the IV (R263). -/
def cbcEncFrom (enc : Bytes → Bytes) : List Bytes → Bytes → Bytes
  | [], _ => []
  | b :: bs, prev => enc (xorBytes b prev) ++ cbcEncFrom enc bs (enc (xorBytes b prev))

/-- `CbcEnc(P, K, IV, R)` (R263). -/
def cbcEnc (c : Config) (m k iv : Bytes) (rounds : Nat) : Bytes :=
  cbcEncFrom (fun b => encBlock c b rounds k) (blocks8 ((pad m).length / 8) (pad m)) iv

/-- The blocks of `CbcDecRaw` in order; `prev` is the previous ciphertext block or the IV (R264). -/
def cbcDecFrom (dec : Bytes → Bytes) : List Bytes → Bytes → Bytes
  | [], _ => []
  | b :: bs, prev => xorBytes (dec b) prev ++ cbcDecFrom dec bs b

/-- `CbcDecRaw(C, K, IV, R)`, for a length that is a positive multiple of 8 (R264). -/
def cbcDecRaw (c : Config) (ct k iv : Bytes) (rounds : Nat) : Bytes :=
  cbcDecFrom (fun b => decBlock c b rounds k) (blocks8 (ct.length / 8) ct) iv

/-- The result of `Unpad` (R265). -/
inductive UnpadResult where
  | ok (m : Bytes)
  | invalid (p : Byte)
deriving DecidableEq, Repr

/-- `Unpad(B)`: the last byte alone is the pad length; 0 or more than the whole length is invalid (R265). -/
def unpad (b : Bytes) : UnpadResult :=
  let p := byteAt b (b.length - 1)
  if p = 0#8 ∨ b.length < p.toNat then .invalid p else .ok (b.take (b.length - p.toNat))

/-- The result of `CbcDec` (R266). -/
inductive CbcResult where
  | ok (m : Bytes)
  | invalidPad (p : Byte)
  | formatError
deriving DecidableEq, Repr

/-- An unpadding result as a decryption result. -/
def UnpadResult.toCbc : UnpadResult → CbcResult
  | .ok m => .ok m
  | .invalid p => .invalidPad p

/-- `CbcDec(C, K, IV, R)` (R266). -/
def cbcDec (c : Config) (ct k iv : Bytes) (rounds : Nat) : CbcResult :=
  if ct.length = 0 ∨ ct.length % 8 ≠ 0 then .formatError else (unpad (cbcDecRaw c ct k iv rounds)).toCbc

/-- The BAD_PAD check (R270 check 5; 60_exceptions R333). -/
def UnpadResult.check : UnpadResult → Option FaultRecord
  | .ok _ => none
  | .invalid p => some ⟨.badPad, p.zeroExtend 32⟩

/-- `Q where Ok(Q) = r`; used only after the BAD_PAD check (notes/assumptions/9.md). -/
def UnpadResult.bytes : UnpadResult → Bytes
  | .ok m => m
  | .invalid _ => []

/-! ## Commands -/

/-- The ciphertext of the input buffer under the key, IV and ROUNDS held (R269). -/
def State.cbcCiphertext (s : State) : Bytes := cbcEnc s.cfg s.inputBytes s.keyMaterial s.ivBytes s.rounds.toNat

/-- The unpadded decryption of the input buffer under the key, IV and ROUNDS held (R270). -/
def State.cbcPlaintext (s : State) : UnpadResult :=
  unpad (cbcDecRaw s.cfg s.inputBytes s.keyMaterial s.ivBytes s.rounds.toNat)

/-- CBC.ENC (R269). -/
def execCbcEnc (s : State) : Host.Outcome State Fault Refusal :=
  runCommand s [s.checkKeylen, s.checkRounds, s.checkPadLen] (s.regen.putOutput s.cbcCiphertext)

/-- CBC.DEC (R270). -/
def execCbcDec (s : State) : Host.Outcome State Fault Refusal :=
  runCommand s [s.checkKeylen, s.checkRounds, s.checkInputLen, s.checkFormat, s.cbcPlaintext.check]
    (s.regen.putOutput s.cbcPlaintext.bytes)

end Sys2Proof.Machine
end

