-- ==== Sys2Proof/Machine/Avalanche.lean ====
section
/-! DEFINITION. The unit avalanche_differential_analyzer (spec/46_avalanche.md): R291 to R294 and the commands AVAL.PT,
AVAL.KEY (R295, R296). -/

namespace Sys2Proof.Machine

/-! ## Functions -/

/-- `FlipBit(s, i)`: byte i div 8 toggled at mask 1 << (7 − i mod 8) (R291). -/
def flipBit (s : Bytes) (i : Nat) : Bytes := s.set (i / 8) (byteAt s (i / 8) ^^^ (1#8 <<< (7 - i % 8)))

/-- `PopCount(b)`: the number of 1 bits of a byte (R292). -/
def popCount (b : Byte) : Nat := (List.range 8).countP fun i => b.getLsbD i

/-- The per-byte differing-bit counts of two strings of equal length (R293). -/
def bitCounts (x y : Bytes) : List Nat := List.zipWith (fun a b => popCount (a ^^^ b)) x y

/-- `Hamming(x, y)` (R292). -/
def hamming (x y : Bytes) : Nat := (bitCounts x y).sum

/-- What is flipped (R290). -/
inductive FlipTarget where
  | plaintext
  | key
deriving DecidableEq, Repr

/-- The result of `Avalanche` (R293). -/
structure AvalancheReport where
  base : Bytes
  cnt : List Nat
  diff : Nat
  total : Nat
deriving DecidableEq, Repr

/-- The ciphertext of the flipped run (R293): the same encrypt path with one bit of the target toggled. -/
def flippedCiphertext (c : Config) (m k iv : Bytes) (rounds : Nat) (target : FlipTarget) (i : Nat) : Bytes :=
  match target with
  | .plaintext => cbcEnc c (flipBit m i) k iv rounds
  | .key => cbcEnc c m (flipBit k i) iv rounds

/-- The report on a baseline and a flipped ciphertext (R293). -/
def compareRuns (base flip : Bytes) : AvalancheReport where
  base := base
  cnt := bitCounts base flip
  diff := hamming base flip
  total := 8 * base.length

/-- `Avalanche(P, K, IV, R, target, i)` (R293). -/
def avalanche (c : Config) (m k iv : Bytes) (rounds : Nat) (target : FlipTarget) (i : Nat) : AvalancheReport :=
  compareRuns (cbcEnc c m k iv rounds) (flippedCiphertext c m k iv rounds target i)

/-- The percentage in hundredths, rounded down: `(10000 · diff) div total` (R294). -/
def AvalancheReport.percent (a : AvalancheReport) : Nat := 10000 * a.diff / a.total

/-! ## Commands -/

/-- The analysis of the operands held in the state (R295, R296). -/
def State.avalancheReport (s : State) (target : FlipTarget) : AvalancheReport :=
  avalanche s.cfg s.inputBytes s.keyMaterial s.ivBytes s.rounds.toNat target s.bitidx.toNat

/-- The report's results: OBUF, OLEN, CNT, AV_DIFF, AV_TOTAL, AV_PCT (R295). -/
def State.putReport (s : State) (a : AvalancheReport) : State :=
  { s.putOutput a.base with
    cnt := s.cnt.writeBytes 0 (a.cnt.map (BitVec.ofNat 8))
    avDiff := BitVec.ofNat 32 a.diff
    avTotal := BitVec.ofNat 32 a.total
    avPct := BitVec.ofNat 32 a.percent }

/-- AVAL.PT (R295). -/
def execAvalPt (s : State) : Host.Outcome State Fault Refusal :=
  runCommand s [s.checkKeylen, s.checkRounds, s.checkPadLen, s.checkBitidx s.ilen.toNat]
    (s.regen.putReport (s.avalancheReport .plaintext))

/-- AVAL.KEY (R296): Regen is of the unflipped key. -/
def execAvalKey (s : State) : Host.Outcome State Fault Refusal :=
  runCommand s [s.checkKeylen, s.checkRounds, s.checkPadLen, s.checkBitidx s.keylen.toNat]
    (s.regen.putReport (s.avalancheReport .key))

end Sys2Proof.Machine
end

