-- ==== Sys2Proof/Machine/System.lean ====
section
/-! DEFINITION. The system commands SYS.NOP and SYS.RST (spec/47_system.md R310, R311). -/

namespace Sys2Proof.Machine

/-- SYS.NOP (R310): only DONE is set. -/
def execSysNop (s : State) : Host.Outcome State Fault Refusal := runCommand s [] s

/-- SYS.RST (R311): the reset state, DONE 0. The one command a halted engine accepts (R325), so it is not run through
`runCommand`. -/
def execSysRst (s : State) : Host.Outcome State Fault Refusal := .next s.toReset

end Sys2Proof.Machine
end

