-- ==== Sys2Proof/Machine/Dispatch.lean ====
section
/-! DEFINITION. The meaning of every command (spec/30_encoding.md R72): one arm per constructor of Instr. exec is the
outcome of the CMD write whose word decodes to the command, the halted state included (60_exceptions R320, R325). -/

namespace Sys2Proof.Machine

def exec (i : Instr) (s : State) : Host.Outcome State Fault Refusal :=
  match i with
  | .sysNop => Sys2Proof.Machine.execSysNop s
  | .sysRst => Sys2Proof.Machine.execSysRst s
  | .sboxGen => Sys2Proof.Machine.execSboxGen s
  | .sboxInv => Sys2Proof.Machine.execSboxInv s
  | .sboxFwd => Sys2Proof.Machine.execSboxFwd s
  | .sboxBwd => Sys2Proof.Machine.execSboxBwd s
  | .pboxGen => Sys2Proof.Machine.execPboxGen s
  | .pboxInv => Sys2Proof.Machine.execPboxInv s
  | .pboxFwd => Sys2Proof.Machine.execPboxFwd s
  | .pboxBwd => Sys2Proof.Machine.execPboxBwd s
  | .ksNorm => Sys2Proof.Machine.execKsNorm s
  | .ksRc16 => Sys2Proof.Machine.execKsRc16 s
  | .ksSubk => Sys2Proof.Machine.execKsSubk s
  | .ksConst => Sys2Proof.Machine.execKsConst s
  | .rndFwd t => Sys2Proof.Machine.execRndFwd t s
  | .rndInv t => Sys2Proof.Machine.execRndInv t s
  | .blkEnc t => Sys2Proof.Machine.execBlkEnc t s
  | .blkDec t => Sys2Proof.Machine.execBlkDec t s
  | .cbcEnc => Sys2Proof.Machine.execCbcEnc s
  | .cbcDec => Sys2Proof.Machine.execCbcDec s
  | .avalPt => Sys2Proof.Machine.execAvalPt s
  | .avalKey => Sys2Proof.Machine.execAvalKey s

end Sys2Proof.Machine
end

