-- ==== Sys2Proof/Machine/Port.lean ====
section
/-! DEFINITION. The host port (spec/20_memory.md): the address map R51, host reads and writes R52, R53, bus errors R54,
R55, and the port event a step performs. -/

namespace Sys2Proof.Machine

/-- The twelve control and status registers (10_state R22). -/
inductive Reg where
  | cmd
  | status
  | rounds
  | keylen
  | ilen
  | olen
  | ridx
  | bitidx
  | finfo
  | avDiff
  | avTotal
  | avPct
deriving DecidableEq, Repr

/-- The registers in the order of R51. -/
def Reg.all : List Reg :=
  [.cmd, .status, .rounds, .keylen, .ilen, .olen, .ridx, .bitidx, .finfo, .avDiff, .avTotal, .avPct]

/-- A register's offset from BASE (R51). -/
def Reg.offset : Reg → Nat
  | .cmd => 0x00000
  | .status => 0x00004
  | .rounds => 0x00008
  | .keylen => 0x0000C
  | .ilen => 0x00010
  | .olen => 0x00014
  | .ridx => 0x00018
  | .bitidx => 0x0001C
  | .finfo => 0x00020
  | .avDiff => 0x00024
  | .avTotal => 0x00028
  | .avPct => 0x0002C

/-- The access column of R51: the host may write the register (CMD included). -/
def Reg.writable : Reg → Bool
  | .cmd => true
  | .status => false
  | .rounds => true
  | .keylen => true
  | .ilen => true
  | .olen => false
  | .ridx => true
  | .bitidx => true
  | .finfo => false
  | .avDiff => false
  | .avTotal => false
  | .avPct => false

/-- The fifteen memories (10_state R29 to R36). -/
inductive MemId where
  | iv
  | sbox
  | isbox
  | pbox
  | ipbox
  | nkey
  | rc16
  | rk
  | rcon
  | mask
  | kmem
  | trace
  | ibuf
  | obuf
  | cnt
deriving DecidableEq, Repr

/-- The memories in the order of R51. -/
def MemId.all : List MemId :=
  [.iv, .sbox, .isbox, .pbox, .ipbox, .nkey, .rc16, .rk, .rcon, .mask, .kmem, .trace, .ibuf, .obuf, .cnt]

/-- The offset of a memory's element 0 (R51); element `i` is at 4i beyond it, RK[r][k] being element 8r + k and
TRACE[r][s][k] element 48r + 8s + k. -/
def MemId.offset : MemId → Nat
  | .iv => 0x00040
  | .sbox => 0x00080
  | .isbox => 0x000C0
  | .pbox => 0x00100
  | .ipbox => 0x00200
  | .nkey => 0x00300
  | .rc16 => 0x00340
  | .rk => 0x00400
  | .rcon => 0x00C00
  | .mask => 0x01400
  | .kmem => 0x02000
  | .trace => 0x04000
  | .ibuf => 0x08000
  | .obuf => 0x0C000
  | .cnt => 0x10000

/-- How many elements a memory has: the "valid indices" column of R51. -/
def MemId.size (c : Config) : MemId → Nat
  | .iv => 8
  | .sbox => 16
  | .isbox => 16
  | .pbox => 64
  | .ipbox => 64
  | .nkey => 16
  | .rc16 => 16
  | .rk => 8 * c.roundsMax
  | .rcon => 8 * c.roundsMax
  | .mask => c.roundsMax
  | .kmem => c.keyCap
  | .trace => 48 * c.roundsMax
  | .ibuf => c.bufCap
  | .obuf => c.bufCap
  | .cnt => c.bufCap

/-- The access column of R51: the host may write the memory's elements. -/
def MemId.writable : MemId → Bool
  | .iv => true
  | .sbox => true
  | .isbox => false
  | .pbox => true
  | .ipbox => false
  | .nkey => false
  | .rc16 => false
  | .rk => false
  | .rcon => false
  | .mask => false
  | .kmem => true
  | .trace => false
  | .ibuf => true
  | .obuf => false
  | .cnt => false

/-- A location of the register window (R51): a register or one element of a memory. -/
inductive Location where
  | reg (r : Reg)
  | elem (m : MemId) (i : Nat)
deriving DecidableEq, Repr

/-- The access column of R51. -/
def Location.writable : Location → Bool
  | .reg r => r.writable
  | .elem m _ => m.writable

/-- A location's offset from BASE (R51). -/
def Location.offset : Location → Nat
  | .reg r => r.offset
  | .elem m i => m.offset + 4 * i

/-- The location at an offset from BASE, none where nothing is mapped (R51, R55). -/
def locate (c : Config) (off : Nat) : Option Location :=
  match Reg.all.find? fun r => r.offset == off with
  | some r => some (.reg r)
  | none =>
    match MemId.all.find? fun m => decide (m.offset ≤ off) && decide (off < m.offset + 4 * m.size c) with
    | some m => if (off - m.offset) % 4 = 0 then some (.elem m ((off - m.offset) / 4)) else none
    | none => none

/-- The size of the register window in bytes (R50). -/
def windowSize : Nat := 0x14000

/-- Where an access of a width at a bus address goes, or why it is a bus error (R54, R55): 32 bits wide, at an offset
from BASE that is a multiple of 4, at a mapped location. -/
def resolve (c : Config) (width addr : Nat) : Except BusError Location :=
  if width ≠ 4 then .error .width
  else if addr < c.base ∨ c.base + windowSize ≤ addr then .error .unmapped
  else if (addr - c.base) % 4 ≠ 0 then .error .misaligned
  else
    match locate c (addr - c.base) with
    | some l => .ok l
    | none => .error .unmapped

/-! ## Registers and memories by name -/

/-- A memory of the state by name. -/
def State.memOf (s : State) : MemId → Memory
  | .iv => s.iv
  | .sbox => s.sbox
  | .isbox => s.isbox
  | .pbox => s.pbox
  | .ipbox => s.ipbox
  | .nkey => s.nkey
  | .rc16 => s.rc16
  | .rk => s.rk
  | .rcon => s.rcon
  | .mask => s.mask
  | .kmem => s.kmem
  | .trace => s.trace
  | .ibuf => s.ibuf
  | .obuf => s.obuf
  | .cnt => s.cnt

/-- What the host reads from a register (R52): CMD reads as 0 (10_state R23). -/
def State.readReg (s : State) : Reg → Word
  | .cmd => 0#32
  | .status => s.status.word
  | .rounds => s.rounds
  | .keylen => s.keylen
  | .ilen => s.ilen
  | .olen => s.olen
  | .ridx => s.ridx
  | .bitidx => s.bitidx
  | .finfo => s.finfo
  | .avDiff => s.avDiff
  | .avTotal => s.avTotal
  | .avPct => s.avPct

/-- What the host reads from a location: the 32-bit register, or the 8-bit element in bits 7:0 with bits 31:8 zero
(R52). -/
def State.readLocation (s : State) : Location → Word
  | .reg r => s.readReg r
  | .elem m i => ((s.memOf m).read i).zeroExtend 32

/-- A host write to a writable register other than CMD (R53): all 32 bits are stored (10_state R25), and ROUNDS and
KEYLEN clear valid flags (10_state R28). A write to a register the host cannot write is a bus error and never reaches
this operation; it changes nothing. -/
def State.writeReg (s : State) (r : Reg) (v : Word) : State :=
  match r with
  | .cmd => s
  | .status => s
  | .rounds => { s with rounds := v }.flagEvent .roundsWrite
  | .keylen => { s with keylen := v }.flagEvent .keyWrite
  | .ilen => { s with ilen := v }
  | .olen => s
  | .ridx => { s with ridx := v }
  | .bitidx => { s with bitidx := v }
  | .finfo => s
  | .avDiff => s
  | .avTotal => s
  | .avPct => s

/-- A host write of a byte to element `i` of a writable memory (R53), with the flags that KMEM, SBOX and PBOX clear
(10_state R28). A write to a memory the host cannot write is a bus error and never reaches this operation; it changes
nothing. -/
def State.writeElem (s : State) (m : MemId) (i : Nat) (v : Byte) : State :=
  match m with
  | .iv => { s with iv := s.iv.write i v }
  | .sbox => { s with sbox := s.sbox.write i v }.flagEvent .sboxWrite
  | .isbox => s
  | .pbox => { s with pbox := s.pbox.write i v }.flagEvent .pboxWrite
  | .ipbox => s
  | .nkey => s
  | .rc16 => s
  | .rk => s
  | .rcon => s
  | .mask => s
  | .kmem => { s with kmem := s.kmem.write i v }.flagEvent .keyWrite
  | .trace => s
  | .ibuf => { s with ibuf := s.ibuf.write i v }
  | .obuf => s
  | .cnt => s

/-- A host write to a writable location other than CMD (R53): an 8-bit element takes bits 7:0 of the word and ignores the
rest. -/
def State.writeLocation (s : State) (l : Location) (v : Word) : State :=
  match l with
  | .reg r => s.writeReg r v
  | .elem m i => s.writeElem m i (v.extractLsb' 0 8)

/-! ## Port events -/

/-- What a step has to do: answer with a state, issue a command word on a state, or refuse a bus error. -/
inductive PortAction where
  | next (t : State)
  | command (w : Word) (t : State)
  | busError (cause : BusError)
deriving DecidableEq, Repr

/-- Whether the port takes an access to a location now: while BUSY only a read of STATUS (70_reset R360). -/
def State.portFree (s : State) (l : Location) : Bool := !s.status.busy || l == .reg .status

/-- A host read (R52, R55): the value is the port's response and no other state changes. -/
def State.hostRead (s : State) (width addr : Nat) : PortAction :=
  match resolve s.cfg width addr with
  | .error e => .busError e
  | .ok l =>
    if s.portFree l then .next { s with port := { s.port with response := some (s.readLocation l) } }
    else .busError .busy

/-- A host write (R53, R55): a write to CMD issues the command word (10_state R23). -/
def State.hostWrite (s : State) (width addr : Nat) (v : Word) : PortAction :=
  match resolve s.cfg width addr with
  | .error e => .busError e
  | .ok l =>
    if s.status.busy then .busError .busy
    else if l.writable then (if l = .reg .cmd then .command v s else .next (s.writeLocation l v))
    else .busError .readOnly

/-- A port event on the state it reaches (R52, R53; hardware reset, 70_reset R350(a)). -/
def State.portEvent (s : State) : PortEvent → PortAction
  | .read width addr => s.hostRead width addr
  | .write width addr v => s.hostWrite width addr v
  | .reset => .next s.toReset

/-- The state once the oldest pending event is taken up: the events after it stay pending, nothing is answered yet. -/
def State.accept (s : State) (rest : List PortEvent) : State :=
  { s with port := { pending := rest, response := none } }

/-- What the next step does: the oldest pending event, or nothing when the host does nothing: "an idle engine simply
waits for the next CMD write, and all state survives idleness indefinitely" (60_exceptions R335). -/
def State.nextAction (s : State) : PortAction :=
  match s.port.pending with
  | [] => .next s
  | e :: rest => (s.accept rest).portEvent e

/-- The host's pending events with a write of a command word to CMD before them all. -/
def State.withCommand (s : State) (w : Word) : State :=
  { s with port := { s.port with pending := .write 4 (s.cfg.base + Reg.offset .cmd) w :: s.port.pending } }

end Sys2Proof.Machine
end

