-- ==== Sys2Proof/Machine/Step.lean ====
section
/-! DEFINITION. One step of the machine: the oldest pending port event (spec/20_memory.md R62, R63; 70_reset R362). A
write to CMD decodes its word and performs the command within the same step (30_encoding R79). -/

namespace Sys2Proof.Machine

/-- The command word `w` written to CMD (30_encoding R79): decode, then the command's meaning, or the ILLEGAL_CMD
fault. -/
def issue (w : Word) (s : State) : Host.Outcome State Fault Refusal :=
  match decode w with
  | .ok i => exec i s
  | .error _ => .next (s.illegalCommand w)

/-- One step: the next port event, to its end. A bus error is refused (20_memory R55). -/
def step (s : State) : Host.Outcome State Fault Refusal :=
  match s.nextAction with
  | .next t => .next t
  | .command w t => issue w t
  | .busError e => .refused (.busError e)

/-- The state in which the very next step issues the command whose word is `w`: a write of it to CMD is put before the
host's other pending accesses (notes/assumptions/3.md). A command is one 32-bit word (30_encoding R70). -/
def State.withFetchWord (s : State) (nbits w : Nat) : State := s.withCommand (BitVec.ofNat 32 (w % 2 ^ nbits))

end Sys2Proof.Machine
end

