-- ==== Sys2Proof/Safety.lean ====
section
/-! DEFINITION. The terms in which claims about SONATA-CE are stated: what a table, a memory and a flag must satisfy in a
good state, what a bus error is, what a command leaves unchanged, and the checks each command makes in order. -/

namespace Sys2Proof.Machine

/-! ## Tables -/

/-- A table of `n` entries that is a bijection over 0..n−1: full length, every entry in range, no duplicate
(40_sbox R107, R108). -/
abbrev IsBijection (t : List Nat) (n : Nat) : Prop := t.length = n ∧ (∀ v ∈ t, v < n) ∧ t.Nodup

/-- Two tables that are each other's positional inverse (40_sbox R109, R110; 41_pbox R132). -/
abbrev InverseTables (t u : List Nat) (n : Nat) : Prop :=
  IsBijection t n ∧ IsBijection u n ∧ (∀ i < n, u.getD (t.getD i 0) 0 = i) ∧ ∀ v < n, t.getD (u.getD v 0) 0 = v

/-- A round-parameter set as 43_round R200 describes it, for the round indices 0..R−1. -/
abbrev RoundParams.Valid (p : RoundParams) (rounds : Nat) : Prop :=
  InverseTables p.sbox p.isbox 16 ∧ InverseTables p.pbox p.ipbox 64 ∧
    ∀ r < rounds, (p.rkAt r).length = 8 ∧ (p.rconAt r).length = 8

/-! ## The laws of every parameter set -/

/-- The structural laws that 00_scope R10 says hold for every value of the numeric parameters, for one parameter set:
bijection (R107, R136 a), single-round inverse under derived parameters (R219), NibbleShuffle self-inverse (R207), block
round trip (R248), CBC round trip (R272) and the padding edge case (R271). R10's determinism is that each of these is
a function of its arguments. -/
structure StructuralLaws (c : Config) : Prop where
  bijections : ∀ k : Bytes, IsBijection (sboxGen c k) 16 ∧ IsBijection (pboxGen c k) 64
  roundInverse : ∀ (k s : Bytes) (rounds r : Nat), r < rounds → s.length = 8 →
    roundInv (roundFwd s r (deriveParams c k rounds)) r (deriveParams c k rounds) = s
  nibbleShuffle : ∀ (k s : Bytes) (rounds r : Nat),
    stNibShuf (stNibShuf s ((deriveParams c k rounds).maskAt r)) ((deriveParams c k rounds).maskAt r) = s
  blockRoundTrip : ∀ (b k : Bytes) (rounds : Nat), b.length = 8 → 1 ≤ rounds →
    decBlock c (encBlock c b rounds k) rounds k = b
  cbcRoundTrip : ∀ (m k iv : Bytes) (rounds : Nat), iv.length = 8 → 1 ≤ rounds →
    cbcDec c (cbcEnc c m k iv rounds) k iv rounds = .ok m
  paddingEdge : ∀ (m k iv : Bytes) (rounds : Nat), iv.length = 8 → 1 ≤ rounds → m.length % 8 = 0 →
    (cbcEnc c m k iv rounds).length = m.length + 8

/-! ## Good states -/

/-- The key length the commands accept (10_state R29). -/
abbrev State.KeyOk (s : State) : Prop := s.keylen.toNat ≤ s.cfg.keyCap

/-- The round counts the commands accept (42_key_schedule R165). -/
abbrev State.RoundsOk (s : State) : Prop := 1 ≤ s.rounds.toNat ∧ s.rounds.toNat ≤ s.cfg.roundsMax

/-- Every memory is in canonical form and holds nothing beyond its elements (20_memory R51). -/
abbrev State.MemForm (s : State) : Prop :=
  ∀ m ∈ MemId.all, (s.memOf m).wf = true ∧ (s.memOf m).within (m.size s.cfg) = true

/-- Each valid flag that is 1 says the truth (10_state R24, R27): the memory it guards was produced from the values its
inputs hold now. -/
abbrev State.FlagsTruthful (s : State) : Prop :=
  (s.status.sv = true → IsBijection s.sboxTable 16) ∧
  (s.status.isv = true → s.status.sv = true ∧ InverseTables s.sboxTable s.isboxTable 16) ∧
  (s.status.pv = true → IsBijection s.pboxTable 64) ∧
  (s.status.ipv = true → s.status.pv = true ∧ InverseTables s.pboxTable s.ipboxTable 64) ∧
  (s.status.kv = true → s.status.sv = true ∧ s.KeyOk ∧ s.RoundsOk ∧
    s.rk.rows s.rounds.toNat = deriveSubkeys s.cfg s.keyMaterial s.rounds.toNat s.sboxTable) ∧
  (s.status.cv = true → s.KeyOk ∧ s.RoundsOk ∧
    s.rcon.rows s.rounds.toNat = deriveRoundConsts8 s.cfg s.keyMaterial s.rounds.toNat ∧
    s.mask.slice 0 s.rounds.toNat = deriveRoundMasks (deriveRoundConsts8 s.cfg s.keyMaterial s.rounds.toNat))

/-- STATUS and FINFO as 10_state R24 and 60_exceptions R321, R323 keep them between commands: not busy, DONE 0 after a
fault, FINFO 0 while no fault is recorded. -/
abbrev State.FaultRecordOk (s : State) : Prop :=
  s.status.busy = false ∧ (s.status.err ≠ .noFault → s.status.done = false) ∧
    (s.status.err = .noFault → s.finfo = 0#32)

/-- The result registers stay in range: OLEN within the buffer, AV_DIFF ≤ AV_TOTAL, AV_PCT in 0..10000, CNT in 0..8
(10_state R35; 46_avalanche R293, R294, R297). -/
abbrev State.ResultsOk (s : State) : Prop :=
  s.olen.toNat ≤ s.cfg.bufCap ∧ s.avDiff.toNat ≤ s.avTotal.toNat ∧ s.avPct.toNat ≤ 10000 ∧
    ∀ i < s.cfg.bufCap, (s.cnt.read i).toNat ≤ 8

/-- Every register and every memory element is 0 (10_state R38). -/
def State.AllZero (s : State) : Prop :=
  s.status = Status.reset ∧ (∀ r : Reg, s.readReg r = 0#32) ∧ ∀ (m : MemId) (i : Nat), (s.memOf m).read i = 0#8

/-! ## Frames -/

/-- Nothing changed from `s` to `t` but the listed registers and the memory elements of `touched`: the parameters and
the host side of the port, every other register, and every other element of every memory are as before. -/
def Unchanged (regs : List Reg) (touched : MemId → Nat → Prop) (s t : State) : Prop :=
  t.cfg = s.cfg ∧ t.port = s.port ∧ (∀ r : Reg, r ∉ regs → t.readReg r = s.readReg r) ∧
    ∀ (m : MemId) (i : Nat), ¬ touched m i → (t.memOf m).read i = (s.memOf m).read i

/-- No memory element at all. -/
def noElement : MemId → Nat → Prop := fun _ _ => False

/-- The elements `lo` to `lo + n − 1` of one memory. -/
def elementsOf (mem : MemId) (lo n : Nat) : MemId → Nat → Prop := fun m i => m = mem ∧ lo ≤ i ∧ i < lo + n

/-- The elements `Regen` writes (44_block_engine R245): both tables, both inverses, and the schedule entries of the
rounds below ROUNDS. -/
def regenElements (rounds : Nat) : MemId → Nat → Prop
  | .iv, _ => False
  | .sbox, i => i < 16
  | .isbox, i => i < 16
  | .pbox, i => i < 64
  | .ipbox, i => i < 64
  | .nkey, _ => False
  | .rc16, _ => False
  | .rk, i => i < 8 * rounds
  | .rcon, i => i < 8 * rounds
  | .mask, i => i < rounds
  | .kmem, _ => False
  | .trace, _ => False
  | .ibuf, _ => False
  | .obuf, _ => False
  | .cnt, _ => False

/-- The trace records of rounds `lo` to `lo + n − 1`, when tracing was asked for (30_encoding R73; 10_state R36). -/
def traceElements (t : Bool) (lo n : Nat) : MemId → Nat → Prop :=
  fun m i => t = true ∧ elementsOf .trace (48 * lo) (48 * n) m i

/-! ## Host accesses -/

/-- One row of 20_memory R51: the offset of its first location from BASE, how many locations it has at a 4-byte stride,
and whether the host may write them (RW or WO). -/
structure MapRow where
  offset : Nat
  count : Nat
  writable : Bool
deriving DecidableEq, Repr

/-- The address map R51, its offsets, valid indices and access column written out from the table: the twelve registers
from CMD to AV_PCT, then the fifteen memories from IV to CNT. -/
def addressMap (c : Config) : List MapRow :=
  [⟨0x00000, 1, true⟩, ⟨0x00004, 1, false⟩, ⟨0x00008, 1, true⟩, ⟨0x0000C, 1, true⟩, ⟨0x00010, 1, true⟩,
   ⟨0x00014, 1, false⟩, ⟨0x00018, 1, true⟩, ⟨0x0001C, 1, true⟩, ⟨0x00020, 1, false⟩, ⟨0x00024, 1, false⟩,
   ⟨0x00028, 1, false⟩, ⟨0x0002C, 1, false⟩,
   ⟨0x00040, 8, true⟩, ⟨0x00080, 16, true⟩, ⟨0x000C0, 16, false⟩, ⟨0x00100, 64, true⟩, ⟨0x00200, 64, false⟩,
   ⟨0x00300, 16, false⟩, ⟨0x00340, 16, false⟩, ⟨0x00400, 8 * c.roundsMax, false⟩, ⟨0x00C00, 8 * c.roundsMax, false⟩,
   ⟨0x01400, c.roundsMax, false⟩, ⟨0x02000, c.keyCap, true⟩, ⟨0x04000, 48 * c.roundsMax, false⟩,
   ⟨0x08000, c.bufCap, true⟩, ⟨0x0C000, c.bufCap, false⟩, ⟨0x10000, c.bufCap, false⟩]

/-- A location of the row is at the bus address. -/
abbrev MapRow.At (row : MapRow) (c : Config) (addr : Nat) : Prop := ∃ i < row.count, addr = c.base + row.offset + 4 * i

/-- The bus address is one R51 maps. -/
abbrev MappedAddress (c : Config) (addr : Nat) : Prop := ∃ row ∈ addressMap c, row.At c addr

/-- The bus address is one R51 marks RO. -/
abbrev ReadOnlyAddress (c : Config) (addr : Nat) : Prop :=
  ∃ row ∈ addressMap c, row.writable = false ∧ row.At c addr

/-- The access is one of those 20_memory R55 lists as bus errors; STATUS is at offset 4. -/
abbrev State.BusErrorAccess (s : State) : PortEvent → Prop
  | .read width addr =>
    width ≠ 4 ∨ addr % 4 ≠ 0 ∨ ¬ MappedAddress s.cfg addr ∨ (s.status.busy = true ∧ addr ≠ s.cfg.base + 4)
  | .write width addr _ =>
    width ≠ 4 ∨ addr % 4 ≠ 0 ∨ ¬ MappedAddress s.cfg addr ∨ s.status.busy = true ∨ ReadOnlyAddress s.cfg addr
  | .reset => False

/-- The valid flags after a host write to a location: the host-write rows of 10_state R28's table. -/
def Location.flagsAfterWrite (l : Location) (st : Status) : Status :=
  match l with
  | .reg .rounds => { st with kv := false, cv := false }
  | .reg .keylen => { st with sv := false, isv := false, pv := false, ipv := false, kv := false, cv := false }
  | .reg _ => st
  | .elem .kmem _ => { st with sv := false, isv := false, pv := false, ipv := false, kv := false, cv := false }
  | .elem .sbox _ => { st with sv := false, isv := false, kv := false }
  | .elem .pbox _ => { st with pv := false, ipv := false }
  | .elem _ _ => st

/-! ## The checks of a command -/

/-- One check of a command rule: whether it passes, and what `raise Fault` records when it does not. -/
structure CheckRow where
  passes : Bool
  code : FaultCode
  info : Word
deriving DecidableEq, Repr

/-- Check "KEYLEN ≤ KEY_CAP". -/
def keylenRow (s : State) : CheckRow := ⟨s.keylen.toNat ≤ s.cfg.keyCap, .badKeylen, s.keylen⟩
/-- Check "1 ≤ ROUNDS ≤ ROUNDS_MAX". -/
def roundsRow (s : State) : CheckRow :=
  ⟨1 ≤ s.rounds.toNat && s.rounds.toNat ≤ s.cfg.roundsMax, .badRounds, s.rounds⟩
/-- Check "RIDX < ROUNDS". -/
def ridxRow (s : State) : CheckRow := ⟨s.ridx.toNat < s.rounds.toNat, .badIndex, s.ridx⟩
/-- Check "ILEN = 8". -/
def blockRow (s : State) : CheckRow := ⟨s.ilen == 8#32, .badLen, s.ilen⟩
/-- Check "ILEN ≤ limit". -/
def lengthRow (s : State) (limit : Int) : CheckRow := ⟨(s.ilen.toNat : Int) ≤ limit, .badLen, s.ilen⟩
/-- Check "flag = 1", with the flag's bit number in STATUS. -/
def readyRow (flag : Bool) (bit : Word) : CheckRow := ⟨flag, .notReady, bit⟩

/-- The checks of every command in the order its rule numbers them (60_exceptions R321, R326 and the Checks line of each
command rule); the data-dependent checks of SBOX.INV, PBOX.INV and CBC.DEC have statements of their own. -/
def checkRows (s : State) : Instr → List CheckRow
  | .sysNop => []
  | .sysRst => []
  | .sboxGen => [keylenRow s]
  | .sboxInv => []
  | .sboxFwd => [lengthRow s s.cfg.bufCap, readyRow s.status.sv 2#32]
  | .sboxBwd => [lengthRow s s.cfg.bufCap, readyRow s.status.isv 3#32]
  | .pboxGen => [keylenRow s]
  | .pboxInv => []
  | .pboxFwd => [blockRow s, readyRow s.status.pv 4#32]
  | .pboxBwd => [blockRow s, readyRow s.status.ipv 5#32]
  | .ksNorm => [keylenRow s]
  | .ksRc16 => []
  | .ksSubk => [keylenRow s, roundsRow s, readyRow s.status.sv 2#32]
  | .ksConst => [keylenRow s, roundsRow s]
  | .rndFwd _ =>
    [roundsRow s, ridxRow s, blockRow s, readyRow s.status.sv 2#32, readyRow s.status.pv 4#32,
      readyRow s.status.kv 6#32, readyRow s.status.cv 7#32]
  | .rndInv _ =>
    [roundsRow s, ridxRow s, blockRow s, readyRow s.status.isv 3#32, readyRow s.status.ipv 5#32,
      readyRow s.status.kv 6#32, readyRow s.status.cv 7#32]
  | .blkEnc _ => [keylenRow s, roundsRow s, blockRow s]
  | .blkDec _ => [keylenRow s, roundsRow s, blockRow s]
  | .cbcEnc => [keylenRow s, roundsRow s, lengthRow s (s.cfg.bufCap - 8)]
  | .cbcDec =>
    [keylenRow s, roundsRow s, lengthRow s s.cfg.bufCap,
      ⟨s.ilen.toNat ≠ 0 && s.ilen.toNat % 8 == 0, .format, s.ilen⟩]
  | .avalPt =>
    [keylenRow s, roundsRow s, lengthRow s (s.cfg.bufCap - 8),
      ⟨s.bitidx.toNat < 8 * s.ilen.toNat, .badIndex, s.bitidx⟩]
  | .avalKey =>
    [keylenRow s, roundsRow s, lengthRow s (s.cfg.bufCap - 8),
      ⟨s.bitidx.toNat < 8 * s.keylen.toNat, .badIndex, s.bitidx⟩]

/-- The six composite commands, each with every T bit it admits (44_block_engine R245). -/
def compositeCommands : List Instr :=
  [.blkEnc false, .blkEnc true, .blkDec false, .blkDec true, .cbcEnc, .cbcDec, .avalPt, .avalKey]

end Sys2Proof.Machine
end

