-- ==== Sys2Proof/Certificates/Slice0/Obligations.lean ====
section
/-! DEFINITION. The statements for the provers: what spec/'s numbered rules say of the commands, the functions they
compute, the host port, faults and reset. Hypotheses are on the state and the operands alone; `State.MemForm`,
`State.FlagsTruthful`, `State.FaultRecordOk` and `State.ResultsOk` are invariants stated here too. Where a clause speaks
of `cfg` or `port`, the model's own fields, it is the model's choice (notes/assumptions/1.md, 3.md, 4.md, 10.md). -/

open Sys2Proof Sys2Proof.Machine

/-! ## Command words -/

/-- Decoding and encoding agree, both ways, on every command and every word (30_encoding R70 to R74): every command is
well formed and its word decodes to it; a word that decodes is the word of what it decodes to; the words that decode
are those the three conditions of R74 leave legal. -/
def Obligations.DecodeAndEncodeAgree : Prop :=
  (∀ i : Instr, i.wellFormed = true ∧ decode (encode i) = .ok i) ∧
  (∀ (w : Word) (i : Instr), decode w = .ok i → encode i = w) ∧
  ∀ w : Word, legalWord w = true ↔ ∃ i : Instr, decode w = .ok i

/-- Words written out from R72's table and from the Encoding line of the command rules decode to their commands, with
the T bit read at bit 8 (R70). -/
def Obligations.SpecWordsDecode : Prop :=
  decode 0x00000000#32 = .ok .sysNop ∧ decode 0x00000001#32 = .ok .sysRst ∧ decode 0x00000010#32 = .ok .sboxGen ∧
  decode 0x00000023#32 = .ok .pboxBwd ∧ decode 0x00000031#32 = .ok .ksRc16 ∧
  decode 0x00000140#32 = .ok (.rndFwd true) ∧ decode 0x00000041#32 = .ok (.rndInv false) ∧
  decode 0x00000050#32 = .ok (.blkEnc false) ∧ decode 0x00000151#32 = .ok (.blkDec true) ∧
  decode 0x00000061#32 = .ok .cbcDec ∧ decode 0x00000071#32 = .ok .avalKey

/-- A step issues the command word written to CMD (30_encoding R79; 10_state R23): when the host's oldest pending access is
a write of any word, legal or not, to CMD and the engine is not busy, the step is `issue` of that word on the state with
the access taken off the port; for a legal word that is `exec` of the decoded command. `withFetchWord` puts such an
access first. With nothing pending the step changes nothing (60_exceptions R335). That accesses reach the machine through `port` is the model's (notes/assumptions/3.md, 11.md). -/
def Obligations.StepIssuesTheDecodedCommand : Prop :=
  (∀ (s : State) (w : Word) (rest : List PortEvent),
    s.port.pending = .write 4 (s.cfg.base + 0) w :: rest → s.status.busy = false →
      step s = issue w { s with port := { pending := rest, response := none } }) ∧
  (∀ (s : State) (w : Word) (rest : List PortEvent) (i : Instr),
    s.port.pending = .write 4 (s.cfg.base + 0) w :: rest → s.status.busy = false → decode w = .ok i →
      step s = exec i { s with port := { pending := rest, response := none } }) ∧
  (∀ (s : State) (n : Nat) (i : Instr), s.status.busy = false → decode (BitVec.ofNat 32 (n % 2 ^ 32)) = .ok i →
      step (s.withFetchWord 32 n) = exec i { s with port := { pending := s.port.pending, response := none } }) ∧
  ∀ s : State, s.port.pending = [] → step s = .next s

/-- R74: a word with a reserved bit set, an unknown OP, or T = 1 on a command without a trace raises ILLEGAL_CMD with the
whole word and does nothing else; every word is one of the 26 legal ones or illegal. -/
def Obligations.IllegalWordFaultsAndNothingElse : Prop :=
  let illegal : Word → Prop := fun w =>
    w.toNat / 512 ≠ 0 ∨
    BitVec.ofNat 8 w.toNat ∉ [0x00#8, 0x01#8, 0x10#8, 0x11#8, 0x12#8, 0x13#8, 0x20#8, 0x21#8, 0x22#8, 0x23#8, 0x30#8,
      0x31#8, 0x32#8, 0x33#8, 0x40#8, 0x41#8, 0x50#8, 0x51#8, 0x60#8, 0x61#8, 0x70#8, 0x71#8] ∨
    (w.toNat / 256 % 2 = 1 ∧ BitVec.ofNat 8 w.toNat ∉ [0x40#8, 0x41#8, 0x50#8, 0x51#8])
  (∀ (s : State) (w : Word), illegal w → s.status.err = .noFault →
    issue w s =
      .next { s with status := { s.status with err := .illegalCmd, done := false, busy := false }, finfo := w }) ∧
  (∀ w : Word, ¬ illegal w ↔ ∃ i : Instr, decode w = .ok i) ∧
  ∃ legal : List Word, legal.Nodup ∧ legal.length = 26 ∧ ∀ w : Word, w ∈ legal ↔ ¬ illegal w

/-! ## Outcomes and faults -/

/-- A halted engine ignores every word but 0x00000001 and leaves by SYS.RST alone (60_exceptions R325, R327; 30_encoding
R79 step 1): the step with a write to CMD pending only takes that write off the port, or gives the all-zero state. -/
def Obligations.HaltedEngineIgnoresEveryWordButReset : Prop :=
  ∀ (s : State) (w : Word) (rest : List PortEvent), s.status.err ≠ .noFault → s.status.busy = false →
    s.port.pending = .write 4 (s.cfg.base + 0) w :: rest →
      (w ≠ 1#32 → step s = .next { s with port := { pending := rest, response := none } }) ∧
      (w = 1#32 → ∃ t, step s = .next t ∧ t.AllZero)

/-- A write to CMD is ignored, completed or faulted, and never anything else (60_exceptions R320). -/
def Obligations.CommandWordHasOneOfThreeOutcomes : Prop :=
  ∀ (s : State) (w : Word), ∃ t, issue w s = .next t ∧
    ((s.status.err ≠ .noFault ∧ w ≠ 1#32 ∧ t = s) ∨
      ((s.status.err = .noFault ∨ w = 1#32) ∧ (∃ i, decode w = .ok i) ∧ t.status.err = .noFault ∧
        (t.status.done = true ↔ w ≠ 1#32)) ∨
      (s.status.err = .noFault ∧ t.status.err ≠ .noFault ∧ t.status.done = false))

/-- R324: a fault, from decode or from a command's check, changes ERR, FINFO, DONE and BUSY and nothing else. -/
def Obligations.FaultEntryIsPrecise : Prop :=
  ∀ (s : State) (w : Word), s.status.err = .noFault → ∃ t, issue w s = .next t ∧
    (t.status.err ≠ .noFault →
      ∃ (code : FaultCode) (info : Word), code ≠ .noFault ∧
        t = { s with status := { s.status with err := code, done := false, busy := false }, finfo := info })

/-- The checks of a command are made in its rule's order; the first that fails is the fault recorded, with FINFO as
60_exceptions R321 says, and when all pass a command without a data-dependent check completes (R326, R324, R320). -/
def Obligations.FirstFailingCheckIsReported : Prop :=
  ∀ (i : Instr) (s : State), s.status.err = .noFault →
    (∀ (before after : List CheckRow) (c : CheckRow), checkRows s i = before ++ c :: after →
      (∀ b ∈ before, b.passes = true) → c.passes = false →
        exec i s =
          .next { s with status := { s.status with err := c.code, done := false, busy := false }, finfo := c.info }) ∧
    ((∀ c ∈ checkRows s i, c.passes = true) → i ∉ [.sysRst, .sboxInv, .pboxInv, .cbcDec] →
      ∃ t, exec i s = .next t ∧ t.status.err = .noFault ∧ t.status.done = true)

/-! ## Reset and system commands -/

/-- After hardware reset, after SYS.RST from any state, and in the machine's reset state, every register, flag and memory
element is 0 (10_state R38; 47_system R311; 70_reset_and_hazards R350, R351). That hardware reset reaches the machine as
an event of the port's pending list, taken in order whether or not BUSY is set, is the model's
(notes/assumptions/3.md, 12.md). -/
def Obligations.EveryResetGivesTheAllZeroState : Prop :=
  (∀ s : State, ∃ t, exec .sysRst s = .next t ∧ t.AllZero) ∧
  (∀ (s : State) (rest : List PortEvent), s.port.pending = .reset :: rest → ∃ t, step s = .next t ∧ t.AllZero) ∧
  State.reset.AllZero

/-- R352: what completes straight after reset, and which fault each other command raises, for every parameter set. -/
def Obligations.StraightAfterReset : Prop :=
  ∀ (c : Config) (p : Port),
    let s := State.resetOf c p
    let faults : Instr → FaultCode → Word → Prop := fun i code info =>
      exec i s = .next { s with status := { s.status with err := code, done := false, busy := false }, finfo := info }
    (∀ i ∈ [Instr.sysNop, .sboxGen, .pboxGen, .ksNorm, .ksRc16],
      ∃ t, exec i s = .next t ∧ t.status.err = .noFault ∧ t.status.done = true) ∧
    (∃ t, exec .sysRst s = .next t ∧ t.status.err = .noFault) ∧
    faults .sboxInv .notBijection 1#32 ∧ faults .pboxInv .notBijection 1#32 ∧
    faults .sboxFwd .notReady 2#32 ∧ faults .sboxBwd .notReady 3#32 ∧
    faults .pboxFwd .badLen 0#32 ∧ faults .pboxBwd .badLen 0#32 ∧
    (∀ i ∈ [Instr.ksSubk, .ksConst, .cbcEnc, .cbcDec, .avalPt, .avalKey], faults i .badRounds 0#32) ∧
    ∀ t : Bool, faults (.rndFwd t) .badRounds 0#32 ∧ faults (.rndInv t) .badRounds 0#32 ∧
      faults (.blkEnc t) .badRounds 0#32 ∧ faults (.blkDec t) .badRounds 0#32

/-- R310: the word 0x00000000 is SYS.NOP, T must be 0, it sets DONE and changes nothing else; a halted engine ignores
it. -/
def Obligations.SysNopSetsDoneOnly : Prop :=
  decode 0x00000000#32 = .ok .sysNop ∧ (∀ i, decode 0x00000100#32 ≠ .ok i) ∧
  ∀ s : State,
    (s.status.err = .noFault → exec .sysNop s = .next { s with status := { s.status with done := true } }) ∧
    (s.status.err ≠ .noFault → exec .sysNop s = .next s)

/-! ## Tables: functions -/

/-- R104: `Shuffle` is the descending Fisher–Yates shuffle of the identity by the high 16 bits of successive draws: `x` is
the generator's run, `a k` the table after `k` swaps. -/
def Obligations.ShuffleIsFisherYates : Prop :=
  ∀ (c : Config) (n : Nat) (seed : Word), 0 < n → ∃ (x : Nat → Word) (a : Nat → List Nat),
    x 0 = seed ∧ (∀ k, x (k + 1) = c.lcgA * x k + c.lcgC) ∧ a 0 = List.range n ∧
    (∀ k, k + 1 < n →
      let i := n - 1 - k
      let j := (x (k + 1)).toNat / 65536 % (i + 1)
      (a (k + 1)).length = n ∧
      ∀ m < n, (a (k + 1)).getD m 0 =
        if m = i then (a k).getD j 0 else if m = j then (a k).getD i 0 else (a k).getD m 0) ∧
    shuffle c n seed = a (n - 1)

/-- The key hashes fold the key bytes in index order and the seeds and tables are made from them (40_sbox R101, R102,
R105; 41_pbox R131; 42_key_schedule R166, R168): the constant seed is never 0 under R9's non-zero GOLDEN. -/
def Obligations.SeedsFoldEveryKeyByteInOrder : Prop :=
  ∀ (c : Config) (k : Bytes) (b : Byte),
    keyFold c [] = c.hashInit ∧ keyFold c (k ++ [b]) = keyFold c k * c.hashMul + b.zeroExtend 32 ∧
    fnv1a c [] = c.fnvBasis ∧ fnv1a c (k ++ [b]) = (fnv1a c k ^^^ b.zeroExtend 32) * c.fnvPrime ∧
    sboxGen c k = shuffle c 16 (keyFold c k ^^^ c.mixS) ∧ pboxGen c k = shuffle c 64 (keyFold c k ^^^ c.mixP) ∧
    (fnv1a c k ≠ c.golden → constSeed c k = fnv1a c k ^^^ c.golden) ∧
    (fnv1a c k = c.golden → constSeed c k = c.golden) ∧ (c.goldenOk = true → constSeed c k ≠ 0#32)

/-- R107: the generated tables are permutations, for every key and every value of the numeric parameters. -/
def Obligations.GeneratedTablesAreBijections : Prop :=
  ∀ (c : Config) (k : Bytes), IsBijection (sboxGen c k) 16 ∧ IsBijection (pboxGen c k) 64

/-- R110, with R108's "`Ok` is returned exactly for bijections", for tables of every size (16 and 64 among them). -/
def Obligations.PositionalInverseLaw : Prop :=
  ∀ (n : Nat) (t : List Nat), t.length = n →
    (∀ u, tableInvert t n = .ok u →
      (∀ i < n, u.getD (t.getD i 0) 0 = i) ∧ (∀ v < n, t.getD (u.getD v 0) 0 = v) ∧ tableInvert u n = .ok t) ∧
    ((∃ u, tableInvert t n = .ok u) ↔ IsBijection t n)

/-- R112: a lookup through a table is undone by a lookup through its inverse, for strings of any length. -/
def Obligations.LookupInverseLaw : Prop :=
  ∀ (t u : List Nat) (s : Bytes), t.length = 16 → tableInvert t 16 = .ok u → subNibbles (subNibbles s t) u = s

/-- The bit and nibble numberings of byte strings (00_scope R14, R15): MSB-first bits, `FromBits` their inverse, high
nibble first, `FromNibbles` the inverse of `Nibbles` both ways. -/
def Obligations.ByteStringNumberings : Prop :=
  (∀ (s : Bytes) (i : Nat), i < 8 * s.length →
    bitAt s i = decide ((s.getD (i / 8) 0#8).toNat / 2 ^ (7 - i % 8) % 2 = 1)) ∧
  (∀ (n : Nat) (b : Nat → Bool), (fromBits n b).length = n ∧ ∀ i < 8 * n, bitAt (fromBits n b) i = b i) ∧
  (∀ b : Byte, (hiNib b).toNat = b.toNat / 16 ∧ (loNib b).toNat = b.toNat % 16 ∧
    (swapNib b).toNat = 16 * (b.toNat % 16) + b.toNat / 16) ∧
  (∀ h l : Nibble, (nibPair h l).toNat = 16 * h.toNat + l.toNat) ∧
  (∀ l : List Nibble, l.length % 2 = 0 → nibbles (fromNibbles l) = l) ∧
  ∀ s : Bytes, (nibbles s).length = 2 * s.length ∧ fromNibbles (nibbles s) = s ∧
    ∀ i < s.length, (nibbles s).getD (2 * i) 0#4 = hiNib (s.getD i 0#8) ∧
      (nibbles s).getD (2 * i + 1) 0#4 = loNib (s.getD i 0#8)

/-- R136: the generated PBox is a permutation; permuting by a table and by its inverse cancel, in both orders;
`PermuteBits` keeps the number of 1 bits and is linear over XOR. -/
def Obligations.PermuteBitsLaws : Prop :=
  (∀ (c : Config) (k : Bytes), IsBijection (pboxGen c k) 64) ∧
  ∀ (p u : List Nat), p.length = 64 → tableInvert p 64 = .ok u →
    (∀ s : Bytes, s.length = 8 →
      permuteBits (permuteBits s p) u = s ∧ permuteBits (permuteBits s u) p = s ∧
      (List.range 64).countP (bitAt (permuteBits s p)) = (List.range 64).countP (bitAt s)) ∧
    ∀ s t : Bytes, s.length = 8 → t.length = 8 →
      permuteBits (xorBytes s t) p = xorBytes (permuteBits s p) (permuteBits t p)

/-! ## Tables: commands -/

/-- SBOX.GEN and PBOX.GEN complete (40_sbox R113; 41_pbox R137; flags 10_state R28): the table of the key in KMEM, the
flags of R28, and nothing else. -/
def Obligations.TableGenerationCompletes : Prop :=
  ∀ s : State, s.status.err = .noFault → s.keylen.toNat ≤ s.cfg.keyCap → s.MemForm →
    (∃ t, exec .sboxGen s = .next t ∧ (∀ i < 16, (t.sbox.read i).toNat = (sboxGen s.cfg s.keyMaterial).getD i 0) ∧
      t.status = { s.status with done := true, sv := true, isv := false, kv := false } ∧
      Unchanged [.status] (elementsOf .sbox 0 16) s t) ∧
    ∃ t, exec .pboxGen s = .next t ∧ (∀ i < 64, (t.pbox.read i).toNat = (pboxGen s.cfg s.keyMaterial).getD i 0) ∧
      t.status = { s.status with done := true, pv := true, ipv := false } ∧
      Unchanged [.status] (elementsOf .pbox 0 64) s t

/-- SBOX.INV and PBOX.INV on a bijection complete (40_sbox R114; 41_pbox R138): the positional inverse, the flags of
R28, and nothing else. -/
def Obligations.TableInversionCompletes : Prop :=
  ∀ s : State, s.status.err = .noFault → s.MemForm →
    (IsBijection s.sboxTable 16 →
      ∃ t, exec .sboxInv s = .next t ∧ (∀ i < 16, (t.isbox.read (s.sbox.read i).toNat).toNat = i) ∧
        InverseTables t.sboxTable t.isboxTable 16 ∧
        t.status = { s.status with done := true, sv := true, isv := true } ∧
        Unchanged [.status] (elementsOf .isbox 0 16) s t) ∧
    (IsBijection s.pboxTable 64 →
      ∃ t, exec .pboxInv s = .next t ∧ (∀ i < 64, (t.ipbox.read (s.pbox.read i).toNat).toNat = i) ∧
        InverseTables t.pboxTable t.ipboxTable 64 ∧
        t.status = { s.status with done := true, pv := true, ipv := true } ∧
        Unchanged [.status] (elementsOf .ipbox 0 64) s t)

/-- SBOX.INV and PBOX.INV on a table that is no bijection raise NOT_BIJECTION with the lowest index whose entry is out of
range or repeats an earlier one, and change nothing else (40_sbox R108, R114; 41_pbox R138; 60_exceptions R321, R324). -/
def Obligations.TableInversionFaultsAtLowestIndex : Prop :=
  let bad : (Nat → Nat) → Nat → Nat → Prop := fun e n i => n ≤ e i ∨ ∃ j < i, e j = e i
  ∀ (s : State) (i : Nat), s.status.err = .noFault →
    (i < 16 → bad (fun j => (s.sbox.read j).toNat) 16 i →
      (∀ k < i, ¬ bad (fun j => (s.sbox.read j).toNat) 16 k) →
        exec .sboxInv s = .next { s with
          status := { s.status with err := .notBijection, done := false, busy := false }
          finfo := BitVec.ofNat 32 i }) ∧
    (i < 64 → bad (fun j => (s.pbox.read j).toNat) 64 i →
      (∀ k < i, ¬ bad (fun j => (s.pbox.read j).toNat) 64 k) →
        exec .pboxInv s = .next { s with
          status := { s.status with err := .notBijection, done := false, busy := false }
          finfo := BitVec.ofNat 32 i })

/-- SBOX.FWD and SBOX.BWD complete (40_sbox R115, R116, R111): each byte's high and low nibble through the table, ILEN
bytes, and nothing else. -/
def Obligations.SboxLookupCompletes : Prop :=
  ∀ s : State, s.status.err = .noFault → s.MemForm → s.FlagsTruthful → s.ilen.toNat ≤ s.cfg.bufCap →
    (s.status.sv = true →
      ∃ t, exec .sboxFwd s = .next t ∧ t.olen = s.ilen ∧
        (∀ i < s.ilen.toNat, (t.obuf.read i).toNat =
          16 * (s.sbox.read ((s.ibuf.read i).toNat / 16)).toNat + (s.sbox.read ((s.ibuf.read i).toNat % 16)).toNat) ∧
        t.status = { s.status with done := true } ∧ Unchanged [.status, .olen] (elementsOf .obuf 0 s.ilen.toNat) s t) ∧
    (s.status.isv = true →
      ∃ t, exec .sboxBwd s = .next t ∧ t.olen = s.ilen ∧
        (∀ i < s.ilen.toNat, (t.obuf.read i).toNat =
          16 * (s.isbox.read ((s.ibuf.read i).toNat / 16)).toNat +
            (s.isbox.read ((s.ibuf.read i).toNat % 16)).toNat) ∧
        t.status = { s.status with done := true } ∧ Unchanged [.status, .olen] (elementsOf .obuf 0 s.ilen.toNat) s t)

/-- PBOX.FWD and PBOX.BWD complete (41_pbox R139, R140, R133): source bit `i` of the input block goes to the bit its table
entry names, and nothing else changes. -/
def Obligations.PboxPermuteCompletes : Prop :=
  ∀ s : State, s.status.err = .noFault → s.MemForm → s.FlagsTruthful → s.ilen = 8#32 →
    (s.status.pv = true →
      ∃ t, exec .pboxFwd s = .next t ∧ t.olen = 8#32 ∧
        (∀ i < 64, bitAt (t.obuf.slice 0 8) (s.pbox.read i).toNat = bitAt (s.ibuf.slice 0 8) i) ∧
        t.status = { s.status with done := true } ∧ Unchanged [.status, .olen] (elementsOf .obuf 0 8) s t) ∧
    (s.status.ipv = true →
      ∃ t, exec .pboxBwd s = .next t ∧ t.olen = 8#32 ∧
        (∀ i < 64, bitAt (t.obuf.slice 0 8) (s.ipbox.read i).toNat = bitAt (s.ibuf.slice 0 8) i) ∧
        t.status = { s.status with done := true } ∧ Unchanged [.status, .olen] (elementsOf .obuf 0 8) s t)

/-! ## The key schedule -/

/-- KS.NORM completes (42_key_schedule R172, R161): the key tiled or cut to 16 bytes, zeros for the empty key, and nothing
else. -/
def Obligations.KsNormCompletes : Prop :=
  ∀ s : State, s.status.err = .noFault → s.keylen.toNat ≤ s.cfg.keyCap → s.MemForm →
    ∃ t, exec .ksNorm s = .next t ∧
      (∀ i < 16, t.nkey.read i = if s.keylen = 0#32 then 0#8 else s.kmem.read (i % s.keylen.toNat)) ∧
      t.status = { s.status with done := true } ∧ Unchanged [.status] (elementsOf .nkey 0 16) s t

/-- KS.RC16 completes for every RIDX (42_key_schedule R173, R162): byte `k` is the top byte of the seed multiplied
`k + 1` times, and nothing else changes. -/
def Obligations.KsRc16Completes : Prop :=
  ∀ s : State, s.status.err = .noFault → s.MemForm →
    ∃ t, exec .ksRc16 s = .next t ∧
      (∀ k < 16, (t.rc16.read k).toNat =
        (s.cfg.rcSeed ^^^ s.ridx).toNat * s.cfg.rcMul.toNat ^ (k + 1) % 2 ^ 32 / 2 ^ 24) ∧
      t.status = { s.status with done := true } ∧ Unchanged [.status] (elementsOf .rc16 0 16) s t

/-- KS.SUBK completes (42_key_schedule R174, R164): the chained schedule states `st`, whose even bytes are the subkeys of
the rounds below ROUNDS, and nothing else. -/
def Obligations.KsSubkCompletes : Prop :=
  ∀ s : State, s.status.err = .noFault → s.KeyOk → s.RoundsOk → s.status.sv = true → s.MemForm →
    ∃ t, exec .ksSubk s = .next t ∧
      (∃ st : Nat → Bytes, st 0 = normalizeKey s.keyMaterial ∧
        (∀ r, st (r + 1) =
          xorBytes (subNibbles (rotL128 (st r) ((7 * r + 3) % 128)) s.sboxTable)
            (roundConstant16 s.cfg (BitVec.ofNat 32 r))) ∧
        ∀ r < s.rounds.toNat, ∀ k < 8, t.rk.read (8 * r + k) = (st (r + 1)).getD (2 * k) 0#8) ∧
      t.status = { s.status with done := true, kv := true } ∧
      Unchanged [.status] (elementsOf .rk 0 (8 * s.rounds.toNat)) s t

/-- KS.CONST completes (42_key_schedule R175, R167, R169, R170): one xorshift run `x` from the constant seed through all
rounds gives the constants byte by byte, each round's mask is its constant's bytes 0 and 7 with 0xA5, and nothing else
changes. -/
def Obligations.KsConstCompletes : Prop :=
  ∀ s : State, s.status.err = .noFault → s.KeyOk → s.RoundsOk → s.MemForm →
    ∃ t, exec .ksConst s = .next t ∧
      (∃ x : Nat → Word, x 0 = constSeed s.cfg s.keyMaterial ∧
        (∀ n, x (n + 1) =
          let y := x n ^^^ (x n <<< s.cfg.xsA)
          let z := y ^^^ (y >>> s.cfg.xsB)
          z ^^^ (z <<< s.cfg.xsC)) ∧
        ∀ j < 8 * s.rounds.toNat, (t.rcon.read j).toNat = (x (j + 1)).toNat % 256) ∧
      (∀ r < s.rounds.toNat, t.mask.read r = t.rcon.read (8 * r) ^^^ t.rcon.read (8 * r + 7) ^^^ 0xA5#8) ∧
      t.status = { s.status with done := true, cv := true } ∧
      Unchanged [.status]
        (fun m i => elementsOf .rcon 0 (8 * s.rounds.toNat) m i ∨ elementsOf .mask 0 s.rounds.toNat m i) s t

/-- Deriving more rounds extends the schedules and changes no earlier entry (42_key_schedule R164, R169). -/
def Obligations.SchedulesExtendWithMoreRounds : Prop :=
  ∀ (c : Config) (k : Bytes) (sbox : List Nat) (m n : Nat), m ≤ n →
    (deriveSubkeys c k n sbox).length = n ∧ (deriveSubkeys c k n sbox).take m = deriveSubkeys c k m sbox ∧
    (deriveRoundConsts8 c k n).length = n ∧ (deriveRoundConsts8 c k n).take m = deriveRoundConsts8 c k m

/-- R163: the circular left rotation of a 16-byte string, bit by bit in the MSB-first numbering, and byte by byte for
multiples of 8. -/
def Obligations.RotationRule : Prop :=
  ∀ s : Bytes, s.length = 16 →
    (∀ n < 128, (rotL128 s n).length = 16 ∧ ∀ i < 128, bitAt (rotL128 s n) i = bitAt s ((i + n) % 128)) ∧
    rotL128 s 0 = s ∧
    ∀ k < 16, ∀ j < 16, (rotL128 s (8 * k)).getD j 0#8 = s.getD ((j + k) % 16) 0#8

/-! ## The round -/

/-- R205, with the byte form of R203 that fixes the direction: Offset and its inverse cancel both ways, and four Offsets
are the identity. -/
def Obligations.OffsetRule : Prop :=
  (∀ s : Bytes, s.length = 8 →
    stInvOffset (stOffset s) = s ∧ stOffset (stInvOffset s) = s ∧
      stOffset (stOffset (stOffset (stOffset s))) = s) ∧
  ∀ a0 a1 a2 a3 a4 a5 a6 a7 : Byte,
    stOffset [a0, a1, a2, a3, a4, a5, a6, a7] =
      [a0, a1, nibPair (loNib a2) (hiNib a3), nibPair (loNib a3) (hiNib a2), a5, a4,
        nibPair (loNib a7) (hiNib a6), nibPair (loNib a6) (hiNib a7)]

/-- R207, with R206's reading of the mask (byte `i` goes with the mask bit of weight 2^i): NibbleShuffle is
self-inverse. -/
def Obligations.NibbleShuffleRule : Prop :=
  ∀ (s : Bytes) (m : Byte), s.length = 8 →
    stNibShuf (stNibShuf s m) m = s ∧
    ∀ i < 8, (stNibShuf s m).getD i 0#8 =
      if m.toNat / 2 ^ i % 2 = 1 then swapNib (s.getD i 0#8) else s.getD i 0#8

/-- R219: the round and its inverse cancel, both ways, for every valid round-parameter set and every 8-byte State. -/
def Obligations.RoundInverseLaw : Prop :=
  ∀ (p : RoundParams) (rounds r : Nat) (s : Bytes), p.Valid rounds → r < rounds → s.length = 8 →
    roundInv (roundFwd s r p) r p = s ∧ roundFwd (roundInv s r p) r p = s

/-- RND.FWD completes (43_round R217, R211, R213): the six stages with the parameters held in the memories, in order; the
snapshots in TRACE[RIDX] when T = 1; and nothing else. -/
def Obligations.RoundForwardCompletes : Prop :=
  ∀ (s : State) (traced : Bool), s.status.err = .noFault → s.MemForm → s.RoundsOk →
    s.ridx.toNat < s.rounds.toNat → s.ilen = 8#32 →
    s.status.sv = true → s.status.pv = true → s.status.kv = true → s.status.cv = true →
      let r := s.ridx.toNat
      let t0 := subNibbles (s.ibuf.slice 0 8) s.sboxTable
      let t1 := stOffset t0
      let t2 := stNibShuf t1 (s.mask.read r)
      let t3 := xorBytes t2 (s.rk.slice (8 * r) 8)
      let t4 := permuteBits t3 s.pboxTable
      let t5 := xorBytes t4 (s.rcon.slice (8 * r) 8)
      ∃ t, exec (.rndFwd traced) s = .next t ∧ t.obuf.slice 0 8 = t5 ∧ t.olen = 8#32 ∧
        (traced = true → t.trace.slice (48 * r) 48 = t0 ++ t1 ++ t2 ++ t3 ++ t4 ++ t5) ∧
        t.status = { s.status with done := true } ∧
        Unchanged [.status, .olen] (fun m i => elementsOf .obuf 0 8 m i ∨ traceElements traced r 1 m i) s t

/-- RND.INV completes (43_round R218, R212, R214): the inverse stages in reverse order; the snapshots in TRACE[RIDX] when
T = 1; and nothing else. -/
def Obligations.RoundInverseCompletes : Prop :=
  ∀ (s : State) (traced : Bool), s.status.err = .noFault → s.MemForm → s.RoundsOk →
    s.ridx.toNat < s.rounds.toNat → s.ilen = 8#32 →
    s.status.isv = true → s.status.ipv = true → s.status.kv = true → s.status.cv = true →
      let r := s.ridx.toNat
      let u0 := xorBytes (s.ibuf.slice 0 8) (s.rcon.slice (8 * r) 8)
      let u1 := permuteBits u0 s.ipboxTable
      let u2 := xorBytes u1 (s.rk.slice (8 * r) 8)
      let u3 := stNibShuf u2 (s.mask.read r)
      let u4 := stInvOffset u3
      let u5 := subNibbles u4 s.isboxTable
      ∃ t, exec (.rndInv traced) s = .next t ∧ t.obuf.slice 0 8 = u5 ∧ t.olen = 8#32 ∧
        (traced = true → t.trace.slice (48 * r) 48 = u0 ++ u1 ++ u2 ++ u3 ++ u4 ++ u5) ∧
        t.status = { s.status with done := true } ∧
        Unchanged [.status, .olen] (fun m i => elementsOf .obuf 0 8 m i ∨ traceElements traced r 1 m i) s t

/-- R215: every result of a traced command but TRACE is the same with T = 0 and T = 1, and no command's results depend on
what TRACE holds. -/
def Obligations.TraceNonInterference : Prop :=
  (∀ command ∈ [Instr.rndFwd, Instr.rndInv, Instr.blkEnc, Instr.blkDec], ∀ s : State, ∃ t u,
    exec (command false) s = .next t ∧ exec (command true) s = .next u ∧ { u with trace := t.trace } = t) ∧
  ∀ (i : Instr) (s : State) (held : Memory), ∃ t u,
    exec i s = .next t ∧ exec i { s with trace := held } = .next u ∧ { u with trace := t.trace } = t

/-- With the key's own tables held and every flag set, RND.FWD and RND.INV compute the round of `DeriveParams`
(70_reset_and_hazards R354; 44_block_engine R241). -/
def Obligations.LeafRoundsReproduceDerivedRounds : Prop :=
  ∀ (s : State) (traced : Bool), s.status.err = .noFault → s.MemForm → s.FlagsTruthful →
    s.ridx.toNat < s.rounds.toNat → s.ilen = 8#32 → s.status.kv = true → s.status.cv = true →
    s.sboxTable = sboxGen s.cfg s.keyMaterial → s.pboxTable = pboxGen s.cfg s.keyMaterial →
      (s.status.pv = true → ∃ t, exec (.rndFwd traced) s = .next t ∧
        t.obuf.slice 0 8 =
          roundFwd (s.ibuf.slice 0 8) s.ridx.toNat (deriveParams s.cfg s.keyMaterial s.rounds.toNat)) ∧
      (s.status.isv = true → s.status.ipv = true → ∃ t, exec (.rndInv traced) s = .next t ∧
        t.obuf.slice 0 8 =
          roundInv (s.ibuf.slice 0 8) s.ridx.toNat (deriveParams s.cfg s.keyMaterial s.rounds.toNat))

/-! ## The block engine -/

/-- R248 (a): decryption undoes encryption and encryption undoes decryption, for every block, key, round count and
parameter set; the derived parameters are valid (44_block_engine R241; 43_round R200). -/
def Obligations.BlockRoundTrip : Prop :=
  ∀ (c : Config) (b k : Bytes) (rounds : Nat), b.length = 8 → 1 ≤ rounds →
    (deriveParams c k rounds).Valid rounds ∧
    decBlock c (encBlock c b rounds k) rounds k = b ∧ encBlock c (decBlock c b rounds k) rounds k = b

/-- BLK.ENC completes (44_block_engine R246, R242; 43_round R213): `x r` is the State before round `r`, rounds run upward,
one trace record a round when T = 1, all six valid flags are set, and nothing else changes but what Regen writes. -/
def Obligations.BlockEncryptionCompletes : Prop :=
  ∀ (s : State) (traced : Bool), s.status.err = .noFault → s.MemForm → s.KeyOk → s.RoundsOk → s.ilen = 8#32 →
    let n := s.rounds.toNat
    let p := deriveParams s.cfg s.keyMaterial n
    ∃ t, exec (.blkEnc traced) s = .next t ∧
      (∃ x : Nat → Bytes, x 0 = s.ibuf.slice 0 8 ∧ (∀ r < n, x (r + 1) = roundFwd (x r) r p) ∧
        t.obuf.slice 0 8 = x n ∧ x n = encBlock s.cfg (s.ibuf.slice 0 8) n s.keyMaterial ∧
        (traced = true → ∀ r < n, t.trace.slice (48 * r) 48 = (roundFwdTrace (x r) r p).bytes)) ∧
      t.olen = 8#32 ∧
      t.status = { s.status with
        done := true, sv := true, isv := true, pv := true, ipv := true, kv := true, cv := true } ∧
      Unchanged [.status, .olen]
        (fun m i => regenElements n m i ∨ elementsOf .obuf 0 8 m i ∨ traceElements traced 0 n m i) s t

/-- BLK.DEC completes (44_block_engine R247, R243; 43_round R214): `x r` is the State after the inverse of round `r`,
rounds run downward, one trace record a round when T = 1, all six valid flags are set, and nothing else changes but
what Regen writes. -/
def Obligations.BlockDecryptionCompletes : Prop :=
  ∀ (s : State) (traced : Bool), s.status.err = .noFault → s.MemForm → s.KeyOk → s.RoundsOk → s.ilen = 8#32 →
    let n := s.rounds.toNat
    let p := deriveParams s.cfg s.keyMaterial n
    ∃ t, exec (.blkDec traced) s = .next t ∧
      (∃ x : Nat → Bytes, x n = s.ibuf.slice 0 8 ∧ (∀ r < n, x r = roundInv (x (r + 1)) r p) ∧
        t.obuf.slice 0 8 = x 0 ∧ x 0 = decBlock s.cfg (s.ibuf.slice 0 8) n s.keyMaterial ∧
        (traced = true → ∀ r < n, t.trace.slice (48 * r) 48 = (roundInvTrace (x (r + 1)) r p).bytes)) ∧
      t.olen = 8#32 ∧
      t.status = { s.status with
        done := true, sv := true, isv := true, pv := true, ipv := true, kv := true, cv := true } ∧
      Unchanged [.status, .olen]
        (fun m i => regenElements n m i ∨ elementsOf .obuf 0 8 m i ∨ traceElements traced 0 n m i) s t

/-- Regen (44_block_engine R245): after a composite command whose checks pass, the table and schedule memories hold
`DeriveParams` of the key in KMEM and ROUNDS, whatever they held before. CBC.DEC has its data-dependent check as a
further premise (45_cbc R270). -/
def Obligations.CompositeCommandsRegenerate : Prop :=
  ∀ i ∈ compositeCommands, ∀ s : State, s.status.err = .noFault → s.MemForm →
    (∀ c ∈ checkRows s i, c.passes = true) →
    (i = .cbcDec → ∃ q, cbcDec s.cfg s.inputBytes s.keyMaterial s.ivBytes s.rounds.toNat = .ok q) →
      let n := s.rounds.toNat
      let p := deriveParams s.cfg s.keyMaterial n
      ∃ t, exec i s = .next t ∧ t.sboxTable = p.sbox ∧ t.isboxTable = p.isbox ∧ t.pboxTable = p.pbox ∧
        t.ipboxTable = p.ipbox ∧ t.rk.rows n = p.rk ∧ t.rcon.rows n = p.rcon ∧ t.mask.slice 0 n = p.mask ∧
        t.status = { s.status with
          done := true, sv := true, isv := true, pv := true, ipv := true, kv := true, cv := true }

/-- The result of a composite command is a function of the key, ROUNDS, the input, IV and BITIDX only (44_block_engine
R245; 10_state R37): two states that agree on these give the same fault or the same results, whatever else they
hold. -/
def Obligations.CompositeCommandsAreStateless : Prop :=
  ∀ i ∈ compositeCommands, ∀ s u : State, s.status.err = .noFault → u.status.err = .noFault → s.MemForm → u.MemForm →
    s.cfg = u.cfg → s.keylen = u.keylen → s.rounds = u.rounds → s.ilen = u.ilen → s.bitidx = u.bitidx →
    s.keyMaterial = u.keyMaterial → s.inputBytes = u.inputBytes → s.ivBytes = u.ivBytes →
      ∃ t v, exec i s = .next t ∧ exec i u = .next v ∧ t.status.err = v.status.err ∧
        (t.status.err ≠ .noFault → t.finfo = v.finfo) ∧
        (t.status.err = .noFault →
          t.olen = v.olen ∧ t.outputBytes = v.outputBytes ∧ t.sboxTable = v.sboxTable ∧
          t.isboxTable = v.isboxTable ∧ t.pboxTable = v.pboxTable ∧ t.ipboxTable = v.ipboxTable ∧
          t.rk.rows s.rounds.toNat = v.rk.rows s.rounds.toNat ∧
          t.rcon.rows s.rounds.toNat = v.rcon.rows s.rounds.toNat ∧
          t.mask.slice 0 s.rounds.toNat = v.mask.slice 0 s.rounds.toNat ∧
          (i ∈ [.blkEnc true, .blkDec true] →
            t.trace.slice 0 (48 * s.rounds.toNat) = v.trace.slice 0 (48 * s.rounds.toNat)) ∧
          (i ∈ [.avalPt, .avalKey] →
            t.cnt.slice 0 t.olen.toNat = v.cnt.slice 0 t.olen.toNat ∧ t.avDiff = v.avDiff ∧
              t.avTotal = v.avTotal ∧ t.avPct = v.avPct))

/-! ## CBC -/

/-- R261: the padded string is the message and p = 8 − len mod 8 bytes of value p, a positive multiple of 8 long. With
`Unpad` reading the last byte alone (45_cbc R265), it is undone. -/
def Obligations.PaddingRule : Prop :=
  ∀ m : Bytes,
    (∃ p, 1 ≤ p ∧ p ≤ 8 ∧ p = 8 - m.length % 8 ∧ (m.length % 8 = 0 → p = 8) ∧
      (pad m).length = m.length + p ∧ (pad m).take m.length = m ∧
      ∀ j, m.length ≤ j → j < m.length + p → (pad m).getD j 0#8 = BitVec.ofNat 8 p) ∧
    (pad m).length = 8 * (m.length / 8 + 1) ∧ unpad (pad m) = .ok m ∧
    ∀ (b : Byte),
      (b.toNat = 0 ∨ m.length + 1 < b.toNat → unpad (m ++ [b]) = .invalid b) ∧
      (1 ≤ b.toNat → b.toNat ≤ m.length + 1 → unpad (m ++ [b]) = .ok (m.take (m.length + 1 - b.toNat)))

/-- R271: a message whose length is a multiple of 8 gains a whole block, and decrypting the encryption of the empty
message gives the empty message. -/
def Obligations.PaddingEdgeCase : Prop :=
  ∀ (c : Config) (k iv : Bytes) (rounds : Nat), iv.length = 8 → 1 ≤ rounds →
    (∀ m : Bytes, m.length % 8 = 0 → (cbcEnc c m k iv rounds).length = m.length + 8) ∧
    cbcDec c (cbcEnc c [] k iv rounds) k iv rounds = .ok []

/-- R272: CBC decryption undoes CBC encryption, as functions for every key, IV, round count and message, and on the
machine whenever CBC.ENC's checks pass: a CBC.DEC of its output under the same key, IV and ROUNDS completes with the
message. The last clause is 00_scope R10: this law and the other structural laws hold for every parameter set. -/
def Obligations.CbcRoundTrip : Prop :=
  (∀ (c : Config) (m k iv : Bytes) (rounds : Nat), iv.length = 8 → 1 ≤ rounds →
    cbcDec c (cbcEnc c m k iv rounds) k iv rounds = .ok m) ∧
  (∀ s u : State, s.cfg.valid = true → s.status.err = .noFault → s.MemForm → s.KeyOk → s.RoundsOk →
    s.ilen.toNat + 8 ≤ s.cfg.bufCap → u.cfg = s.cfg → u.status.err = .noFault → u.MemForm →
    u.keylen = s.keylen → u.keyMaterial = s.keyMaterial → u.rounds = s.rounds → u.ivBytes = s.ivBytes →
      ∃ t, exec .cbcEnc s = .next t ∧
        (u.ilen = t.olen → u.inputBytes = t.outputBytes →
          ∃ v, exec .cbcDec u = .next v ∧ v.olen = s.ilen ∧ v.outputBytes = s.inputBytes)) ∧
  ∀ c : Config, StructuralLaws c

/-- CBC.ENC completes (45_cbc R269, R263): block by block, each padded plaintext block XORed with the previous ciphertext
block, the IV for the first; all six valid flags set; nothing else changes but what Regen writes. -/
def Obligations.CbcEncCompletes : Prop :=
  ∀ s : State, s.cfg.valid = true → s.status.err = .noFault → s.MemForm → s.KeyOk → s.RoundsOk →
    s.ilen.toNat + 8 ≤ s.cfg.bufCap →
      let blocks := s.ilen.toNat / 8 + 1
      ∃ t, exec .cbcEnc s = .next t ∧ t.olen.toNat = 8 * blocks ∧
        (∀ n < blocks, t.obuf.slice (8 * n) 8 =
          encBlock s.cfg
            (xorBytes (((pad s.inputBytes).drop (8 * n)).take 8)
              (if n = 0 then s.iv.slice 0 8 else t.obuf.slice (8 * (n - 1)) 8))
            s.rounds.toNat s.keyMaterial) ∧
        t.status = { s.status with
          done := true, sv := true, isv := true, pv := true, ipv := true, kv := true, cv := true } ∧
        Unchanged [.status, .olen]
          (fun m i => regenElements s.rounds.toNat m i ∨ elementsOf .obuf 0 (8 * blocks) m i) s t

/-- CBC.DEC completes or raises BAD_PAD (45_cbc R270, R264, R265; 60_exceptions R321, R333): `raw` is each decrypted block
XORed with the previous ciphertext block, the IV for the first; its last byte `p` decides. A bad pad changes nothing
but the fault record. -/
def Obligations.CbcDecCompletes : Prop :=
  ∀ s : State, s.status.err = .noFault → s.MemForm → s.KeyOk → s.RoundsOk →
    s.ilen.toNat ≤ s.cfg.bufCap → 0 < s.ilen.toNat → s.ilen.toNat % 8 = 0 →
      ∃ raw : Bytes, raw.length = s.ilen.toNat ∧
        (∀ n < s.ilen.toNat / 8, (raw.drop (8 * n)).take 8 =
          xorBytes (decBlock s.cfg (s.ibuf.slice (8 * n) 8) s.rounds.toNat s.keyMaterial)
            (if n = 0 then s.iv.slice 0 8 else s.ibuf.slice (8 * (n - 1)) 8)) ∧
        let p := (raw.getD (s.ilen.toNat - 1) 0#8).toNat
        (1 ≤ p → p ≤ s.ilen.toNat →
          ∃ t, exec .cbcDec s = .next t ∧ t.olen.toNat = s.ilen.toNat - p ∧
            t.obuf.slice 0 (s.ilen.toNat - p) = raw.take (s.ilen.toNat - p) ∧
            t.status = { s.status with
              done := true, sv := true, isv := true, pv := true, ipv := true, kv := true, cv := true } ∧
            Unchanged [.status, .olen]
              (fun m i => regenElements s.rounds.toNat m i ∨ elementsOf .obuf 0 (s.ilen.toNat - p) m i) s t) ∧
        (p = 0 ∨ s.ilen.toNat < p →
          exec .cbcDec s = .next { s with
            status := { s.status with err := .badPad, done := false, busy := false }
            finfo := BitVec.ofNat 32 p })

/-- A wrong IV alone changes only the first decrypted block, by the XOR of the two IVs (45_cbc R264, R268). -/
def Obligations.WrongIvCorruptsFirstBlockOnly : Prop :=
  ∀ (c : Config) (ct k iv iv' : Bytes) (rounds : Nat), iv.length = 8 → iv'.length = 8 →
    0 < ct.length → ct.length % 8 = 0 →
      (cbcDecRaw c ct k iv' rounds).drop 8 = (cbcDecRaw c ct k iv rounds).drop 8 ∧
      (cbcDecRaw c ct k iv' rounds).take 8 =
        xorBytes ((cbcDecRaw c ct k iv rounds).take 8) (xorBytes iv iv')

/-! ## Avalanche -/

/-- R291: flipping bit `i` toggles byte `i div 8` at mask `1 << (7 - i mod 8)`; exactly that bit changes and the length
does not. -/
def Obligations.FlipBitRule : Prop :=
  ∀ (s : Bytes) (i : Nat), i < 8 * s.length →
    (flipBit s i).length = s.length ∧
    (∀ j < s.length, (flipBit s i).getD j 0#8 =
      if j = i / 8 then s.getD j 0#8 ^^^ BitVec.ofNat 8 (2 ^ (7 - i % 8)) else s.getD j 0#8) ∧
    ∀ j < 8 * s.length, bitAt (flipBit s i) j = if j = i then !bitAt s j else bitAt s j

/-- The avalanche report (46_avalanche R293, R294): as many counts as baseline bytes, each at most 8, the difference their
sum and at most the total, the total 8 bits a byte and at least 64, the percentage at most 10000 hundredths. -/
def Obligations.AvalancheReportBounds : Prop :=
  ∀ (c : Config) (m k iv : Bytes) (rounds : Nat) (target : FlipTarget) (i : Nat), iv.length = 8 → 1 ≤ rounds →
    let a := avalanche c m k iv rounds target i
    a.base = cbcEnc c m k iv rounds ∧ a.cnt.length = a.base.length ∧ (∀ n ∈ a.cnt, n ≤ 8) ∧ a.diff = a.cnt.sum ∧
      a.total = 8 * a.base.length ∧ 64 ≤ a.total ∧ a.diff ≤ a.total ∧ a.percent ≤ 10000

/-- A flipped plaintext bit in block n leaves the cipher blocks before it unchanged, so their counts are 0 (46_avalanche
R295). -/
def Obligations.FlippedBlockPrefixIsUnchanged : Prop :=
  ∀ (c : Config) (m k iv : Bytes) (rounds i j : Nat), iv.length = 8 → i < 8 * m.length → j < 8 * (i / 64) →
    (cbcEnc c (flipBit m i) k iv rounds).getD j 0#8 = (cbcEnc c m k iv rounds).getD j 0#8 ∧
    (avalanche c m k iv rounds .plaintext i).cnt.getD j 0 = 0

/-- AVAL.PT and AVAL.KEY complete (46_avalanche R295, R296, R293, R294): the baseline ciphertext in OBUF, the per-byte counts
of differing bits in CNT, their sum, the total and the percentage; Regen of the unflipped key; nothing else. -/
def Obligations.AvalancheCompletes : Prop :=
  ∀ (s : State) (target : FlipTarget), s.cfg.valid = true → s.status.err = .noFault → s.MemForm → s.KeyOk →
    s.RoundsOk → s.ilen.toNat + 8 ≤ s.cfg.bufCap →
    s.bitidx.toNat < 8 * (if target = .plaintext then s.ilen.toNat else s.keylen.toNat) →
      let base := cbcEnc s.cfg s.inputBytes s.keyMaterial s.ivBytes s.rounds.toNat
      let flip :=
        if target = .plaintext then
          cbcEnc s.cfg (flipBit s.inputBytes s.bitidx.toNat) s.keyMaterial s.ivBytes s.rounds.toNat
        else cbcEnc s.cfg s.inputBytes (flipBit s.keyMaterial s.bitidx.toNat) s.ivBytes s.rounds.toNat
      ∃ t, exec (if target = .plaintext then .avalPt else .avalKey) s = .next t ∧
        t.olen.toNat = 8 * (s.ilen.toNat / 8 + 1) ∧ t.outputBytes = base ∧
        (∀ j < base.length, (t.cnt.read j).toNat =
          (List.range 8).countP fun b => (base.getD j 0#8 ^^^ flip.getD j 0#8).getLsbD b) ∧
        t.avDiff.toNat = (List.range (8 * base.length)).countP (fun b => bitAt base b != bitAt flip b) ∧
        t.avTotal.toNat = 8 * base.length ∧ t.avPct.toNat = 10000 * t.avDiff.toNat / t.avTotal.toNat ∧
        t.status = { s.status with
          done := true, sv := true, isv := true, pv := true, ipv := true, kv := true, cv := true } ∧
        Unchanged [.status, .olen, .avDiff, .avTotal, .avPct]
          (fun m i => regenElements s.rounds.toNat m i ∨ elementsOf .obuf 0 base.length m i ∨
            elementsOf .cnt 0 base.length m i) s t

/-! ## The host port -/

/-- A host read answers the register at its offset of 20_memory R51, 0 for CMD, STATUS bit by bit as 10_state R24 lays it
out with 60_exceptions R321's numbers, or the element zero-extended, and changes nothing but the port's own record (R52;
while BUSY only STATUS, R55). The record is the model's (notes/assumptions/4.md). -/
def Obligations.HostReadReturnsTheElement : Prop :=
  ∀ (s : State) (rest : List PortEvent), s.cfg.valid = true →
    let answers : Word → State := fun w => { s with port := { pending := rest, response := some w } }
    (∀ (offset : Nat) (w : Word),
      (offset, w) ∈ [(0x00, 0#32), (0x08, s.rounds), (0x0C, s.keylen), (0x10, s.ilen), (0x14, s.olen), (0x18, s.ridx),
        (0x1C, s.bitidx), (0x20, s.finfo), (0x24, s.avDiff), (0x28, s.avTotal), (0x2C, s.avPct)] →
      s.port.pending = .read 4 (s.cfg.base + offset) :: rest → s.status.busy = false → step s = .next (answers w)) ∧
    (s.port.pending = .read 4 (s.cfg.base + 0x04) :: rest → ∃ w, step s = .next (answers w) ∧
      w.getLsbD 0 = s.status.busy ∧ w.getLsbD 1 = s.status.done ∧ w.getLsbD 2 = s.status.sv ∧
      w.getLsbD 3 = s.status.isv ∧ w.getLsbD 4 = s.status.pv ∧ w.getLsbD 5 = s.status.ipv ∧
      w.getLsbD 6 = s.status.kv ∧ w.getLsbD 7 = s.status.cv ∧
      w.toNat / 256 = match s.status.err with
        | .noFault => 0
        | .illegalCmd => 1
        | .badRounds => 2
        | .badKeylen => 3
        | .badLen => 4
        | .format => 5
        | .badPad => 6
        | .notBijection => 7
        | .notReady => 8
        | .badIndex => 9) ∧
    ∀ (offset size : Nat) (m : Memory),
      (offset, size, m) ∈ [(0x00040, 8, s.iv), (0x00080, 16, s.sbox), (0x000C0, 16, s.isbox), (0x00100, 64, s.pbox),
        (0x00200, 64, s.ipbox), (0x00300, 16, s.nkey), (0x00340, 16, s.rc16), (0x00400, 8 * s.cfg.roundsMax, s.rk),
        (0x00C00, 8 * s.cfg.roundsMax, s.rcon), (0x01400, s.cfg.roundsMax, s.mask), (0x02000, s.cfg.keyCap, s.kmem),
        (0x04000, 48 * s.cfg.roundsMax, s.trace), (0x08000, s.cfg.bufCap, s.ibuf), (0x0C000, s.cfg.bufCap, s.obuf),
        (0x10000, s.cfg.bufCap, s.cnt)] →
      ∀ i < size, s.port.pending = .read 4 (s.cfg.base + offset + 4 * i) :: rest → s.status.busy = false →
        step s = .next (answers (BitVec.ofNat 32 (m.read i).toNat))

/-- A host write stores the word in the register, or its low byte in the element, at its offset of 20_memory R51, clears
the valid flags 10_state R28 names for that location, and changes nothing else (R53). -/
def Obligations.HostWriteStoresTheElement : Prop :=
  ∀ (s : State) (v : Word) (rest : List PortEvent), s.cfg.valid = true → s.MemForm → s.status.busy = false →
    (∀ (offset : Nat) (r : Reg) (field : State → Word),
      (offset, r, field) ∈ [(0x08, Reg.rounds, State.rounds), (0x0C, .keylen, State.keylen), (0x10, .ilen, State.ilen),
        (0x18, .ridx, State.ridx), (0x1C, .bitidx, State.bitidx)] →
      s.port.pending = .write 4 (s.cfg.base + offset) v :: rest →
        ∃ t, step s = .next t ∧ field t = v ∧ t.status = (Location.reg r).flagsAfterWrite s.status ∧
          t.port = { pending := rest, response := none } ∧
          Unchanged [r, .status] noElement { s with port := { pending := rest, response := none } } t) ∧
    ∀ (offset size : Nat) (m : MemId) (field : State → Memory),
      (offset, size, m, field) ∈ [(0x00040, 8, MemId.iv, State.iv), (0x00080, 16, .sbox, State.sbox),
        (0x00100, 64, .pbox, State.pbox), (0x02000, s.cfg.keyCap, .kmem, State.kmem),
        (0x08000, s.cfg.bufCap, .ibuf, State.ibuf)] →
      ∀ i < size, s.port.pending = .write 4 (s.cfg.base + offset + 4 * i) v :: rest →
        ∃ t, step s = .next t ∧ ((field t).read i).toNat = v.toNat % 256 ∧
          t.status = (Location.elem m i).flagsAfterWrite s.status ∧
          t.port = { pending := rest, response := none } ∧
          Unchanged [.status] (elementsOf m i 1) { s with port := { pending := rest, response := none } } t

/-- A step is refused exactly for the host accesses 20_memory R55 lists as bus errors, at the addresses R51 gives in
numbers, and is a next state for every other pending event; no step ends in a fault outcome (60_exceptions R320). That a
bus error is a refusal is R55's advice to a model (notes/assumptions/5.md). -/
def Obligations.BusErrorsAreExactlyTheRefusals : Prop :=
  ∀ (s : State) (e : PortEvent) (rest : List PortEvent), s.cfg.valid = true → s.port.pending = e :: rest →
    (s.BusErrorAccess e → ∃ cause, step s = .refused (.busError cause)) ∧
    (¬ s.BusErrorAccess e → ∃ t, step s = .next t)

/-! ## Invariants -/

/-- Every step keeps the memories in canonical form and within the elements 20_memory R51 gives them, and the parameters
unchanged, from every state that has the form, under R9's constraints. -/
def Obligations.EveryStepKeepsMemoryForm : Prop :=
  ∀ s t : State, s.cfg.valid = true → s.MemForm → step s = .next t → t.MemForm ∧ t.cfg = s.cfg

/-- Every step keeps the valid flags truthful (10_state R24, R27, R28): a flag that is 1 guards a memory the engine
produced from the values its inputs hold now. -/
def Obligations.EveryStepKeepsFlagsTruthful : Prop :=
  ∀ s t : State, s.MemForm → s.FlagsTruthful → step s = .next t → t.FlagsTruthful

/-- Every step keeps the fault record (10_state R24; 60_exceptions R323, R325, R327): not busy, DONE 0 after a fault,
FINFO 0 while none is recorded; and a recorded fault stays as it is until a reset. -/
def Obligations.EveryStepKeepsFaultRecord : Prop :=
  ∀ s t : State, s.FaultRecordOk → step s = .next t →
    t.FaultRecordOk ∧
    (s.status.err ≠ .noFault → (t.status.err = s.status.err ∧ t.finfo = s.finfo) ∨ t.AllZero)

/-- Every step keeps the result registers in range (10_state R26, R35; 46_avalanche R293, R294, R297): OLEN within the
buffer, AV_DIFF at most AV_TOTAL, AV_PCT at most 10000, every CNT entry at most 8. -/
def Obligations.EveryStepKeepsResultsInRange : Prop :=
  ∀ s t : State, s.cfg.valid = true → s.MemForm → s.ResultsOk → step s = .next t → t.ResultsOk

/-- The reset state of every parameter set meets the four invariants, and the default parameter set P0 meets R9's
constraints. BASE = 0 in P0 is the model's choice (notes/assumptions/2.md). -/
def Obligations.ResetMeetsTheInvariants : Prop :=
  (∀ (c : Config) (p : Port), let s := State.resetOf c p
    s.MemForm ∧ s.FlagsTruthful ∧ s.FaultRecordOk ∧ s.ResultsOk) ∧
  Config.p0.valid = true ∧ State.reset.cfg = Config.p0

/-- No command but SYS.RST writes an operand register, KMEM, IV or IBUF (10_state R25, R29, R30, R35, R39; 20_memory R68). -/
def Obligations.CommandsNeverWriteHostInputs : Prop :=
  ∀ (i : Instr) (s : State), i ≠ .sysRst → ∃ t, exec i s = .next t ∧
    t.rounds = s.rounds ∧ t.keylen = s.keylen ∧ t.ilen = s.ilen ∧ t.ridx = s.ridx ∧ t.bitidx = s.bitidx ∧
    t.kmem = s.kmem ∧ t.iv = s.iv ∧ t.ibuf = s.ibuf
end

