-- ==== Sys2Proof/Laws/Bytes.lean ====
section
/-! SUPPORT. The laws of the byte-string notation (Machine/Operands.lean): bits of a packed string, equality by bits,
nibble views, bytewise XOR. -/

namespace Sys2Proof.Machine

theorem byteAt_eq_getElem (s : Bytes) (i : Nat) (h : i < s.length) : byteAt s i = s[i] := by
  simp [byteAt, List.getD, h]

/-- Two strings of equal length with equal bytes are equal. -/
theorem bytes_ext {s t : Bytes} (hl : s.length = t.length) (h : ∀ i < s.length, byteAt s i = byteAt t i) : s = t := by
  apply List.ext_getElem hl
  intro i h1 h2
  have := h i h1
  rwa [byteAt_eq_getElem s i h1, byteAt_eq_getElem t i h2] at this

theorem packByte_getMsbD (f : Nat → Bool) (k : Nat) (h : k < 8) : (packByte f).getMsbD k = f k := by
  have : k = 0 ∨ k = 1 ∨ k = 2 ∨ k = 3 ∨ k = 4 ∨ k = 5 ∨ k = 6 ∨ k = 7 := by omega
  unfold packByte
  rcases this with h | h | h | h | h | h | h | h <;> subst h <;>
    exact BitVec.getMsbD_ofBoolListBE ..

@[simp] theorem fromBits_length (n : Nat) (b : Nat → Bool) : (fromBits n b).length = n := by
  simp [fromBits]

/-- `Bit(FromBits(b), i) = b i` (R14). -/
theorem bitAt_fromBits (n : Nat) (b : Nat → Bool) (i : Nat) (h : i < 8 * n) : bitAt (fromBits n b) i = b i := by
  have hi : i / 8 < n := by omega
  unfold bitAt
  rw [byteAt_eq_getElem _ _ (by simpa using hi)]
  simp only [fromBits, List.getElem_map, List.getElem_range]
  rw [packByte_getMsbD _ _ (by omega)]
  congr 1
  omega

theorem byteAt_getMsbD (s : Bytes) (i k : Nat) (h : k < 8) : (byteAt s i).getMsbD k = bitAt s (8 * i + k) := by
  unfold bitAt
  rw [show (8 * i + k) / 8 = i by omega, show (8 * i + k) % 8 = k by omega]

/-- Two strings of equal length with equal bits are equal. -/
theorem bytes_ext_bitAt {s t : Bytes} (hl : s.length = t.length) (h : ∀ i < 8 * s.length, bitAt s i = bitAt t i) :
    s = t := by
  apply bytes_ext hl
  intro i hi
  apply BitVec.eq_of_getMsbD_eq
  intro k hk
  rw [byteAt_getMsbD s i k hk, byteAt_getMsbD t i k hk]
  exact h _ (by omega)

/-! ## XOR -/

@[simp] theorem xorBytes_length (s t : Bytes) : (xorBytes s t).length = min s.length t.length := by
  simp [xorBytes]

theorem byteAt_xorBytes (s t : Bytes) (h : s.length = t.length) (i : Nat) :
    byteAt (xorBytes s t) i = byteAt s i ^^^ byteAt t i := by
  by_cases hi : i < s.length
  · rw [byteAt_eq_getElem _ _ (by simpa [← h] using hi), byteAt_eq_getElem _ _ hi, byteAt_eq_getElem _ _ (h ▸ hi)]
    simp [xorBytes]
  · have hz : ∀ u : Bytes, u.length ≤ i → byteAt u i = 0#8 := by
      intro u hu
      simp [byteAt, List.getD, List.getElem?_eq_none hu]
    rw [hz _ (by simp; omega), hz s (by omega), hz t (by omega)]
    rfl

theorem bitAt_xorBytes (s t : Bytes) (h : s.length = t.length) (i : Nat) :
    bitAt (xorBytes s t) i = (bitAt s i ^^ bitAt t i) := by
  unfold bitAt
  rw [byteAt_xorBytes s t h, BitVec.getMsbD_xor]

/-- XOR with the same string of the same length twice is the identity. -/
theorem xorBytes_xorBytes (s t : Bytes) (h : s.length = t.length) : xorBytes (xorBytes s t) t = s := by
  apply bytes_ext (by simp [h])
  intro i _
  rw [byteAt_xorBytes _ _ (by simp [h]), byteAt_xorBytes _ _ h, BitVec.xor_assoc, BitVec.xor_self, BitVec.xor_zero]

/-! ## Nibbles -/

@[simp] theorem hiNib_nibPair (h l : Nibble) : hiNib (nibPair h l) = h := by
  revert h l; decide

@[simp] theorem loNib_nibPair (h l : Nibble) : loNib (nibPair h l) = l := by
  revert h l; decide

@[simp] theorem nibPair_hiNib_loNib (b : Byte) : nibPair (hiNib b) (loNib b) = b := by
  revert b; decide

@[simp] theorem swapNib_swapNib (b : Byte) : swapNib (swapNib b) = b := by
  simp [swapNib]

@[simp] theorem nibbles_length (s : Bytes) : (nibbles s).length = 2 * s.length := by
  induction s with
  | nil => rfl
  | cons b s ih => simp [nibbles, ih]; omega

@[simp] theorem fromNibbles_nibbles (s : Bytes) : fromNibbles (nibbles s) = s := by
  induction s with
  | nil => rfl
  | cons b s ih => simp [nibbles, fromNibbles, ih]

/-- Splitting the bytes of an even number of nibbles gives the nibbles back. -/
theorem nibbles_fromNibbles (n : Nat) (l : List Nibble) (h : l.length = 2 * n) : nibbles (fromNibbles l) = l := by
  induction n generalizing l with
  | zero => simp only [Nat.mul_zero, List.length_eq_zero_iff] at h; subst h; rfl
  | succ n ih =>
    match l, h with
    | a :: b :: rest, h =>
      simp only [fromNibbles, nibbles, hiNib_nibPair, loNib_nibPair]
      rw [ih rest (by simp only [List.length_cons] at h; omega)]
    | [_], h => simp at h; omega
    | [], h => simp at h

theorem fromNibbles_length (n : Nat) (l : List Nibble) (h : l.length = 2 * n) : (fromNibbles l).length = n := by
  have := congrArg List.length (nibbles_fromNibbles n l h)
  rw [nibbles_length] at this
  omega

/-! ## Blocks -/

@[simp] theorem blocks8_length (n : Nat) (s : Bytes) : (blocks8 n s).length = n := by
  induction n generalizing s with
  | zero => rfl
  | succ n ih => simp [blocks8, ih]

theorem blocks8_getElem (n : Nat) (s : Bytes) (i : Nat) (h : i < (blocks8 n s).length) :
    (blocks8 n s)[i] = (s.drop (8 * i)).take 8 := by
  induction n generalizing s i with
  | zero => simp [blocks8] at h
  | succ n ih =>
    cases i with
    | zero => simp [blocks8]
    | succ i =>
      simp only [blocks8, List.getElem_cons_succ]
      rw [ih]
      rw [List.drop_drop, show 8 + 8 * i = 8 * (i + 1) by omega]

/-- Every block of a string of `8n` bytes or more has 8 bytes. -/
theorem blocks8_mem_length (n : Nat) (s : Bytes) (hs : 8 * n ≤ s.length) (b : Bytes) (hb : b ∈ blocks8 n s) :
    b.length = 8 := by
  induction n generalizing s with
  | zero => simp [blocks8] at hb
  | succ n ih =>
    simp only [blocks8, List.mem_cons] at hb
    rcases hb with rfl | hb
    · simp; omega
    · exact ih (s.drop 8) (by simp; omega) hb

/-! ## Operands -/

@[simp] theorem State.keyMaterial_length (s : State) : s.keyMaterial.length = s.keylen.toNat := by
  simp [State.keyMaterial, Memory.slice]

@[simp] theorem State.inputBytes_length (s : State) : s.inputBytes.length = s.ilen.toNat := by
  simp [State.inputBytes, Memory.slice]

@[simp] theorem State.inputBlock_length (s : State) : s.inputBlock.length = 8 := by
  simp [State.inputBlock, Memory.slice]

@[simp] theorem State.ivBytes_length (s : State) : s.ivBytes.length = 8 := by
  simp [State.ivBytes, Memory.slice]

@[simp] theorem Memory.table_length (m : Memory) (n : Nat) : (m.table n).length = n := by
  simp [Memory.table, Memory.slice]

@[simp] theorem tableBytes_length (t : List Nat) : (tableBytes t).length = t.length := by
  simp [tableBytes]

@[simp] theorem Memory.rows_length (m : Memory) (n : Nat) : (m.rows n).length = n := by
  simp [Memory.rows]

end Sys2Proof.Machine
end

