-- ==== Sys2Proof/Laws/Cipher.lean ====
section
/-! SUPPORT. The lengths of what the function rules of the cipher return (Machine/Sbox.lean to Avalanche.lean), and the
per-element form of their lists. -/

namespace Sys2Proof.Machine

/-! ## Tables -/

@[simp] theorem swapEntries_length (a : List Nat) (i j : Nat) : (swapEntries a i j).length = a.length := by
  simp [swapEntries]

@[simp] theorem shuffleFrom_length (c : Config) (i : Nat) (x : Word) (a : List Nat) :
    (shuffleFrom c i x a).length = a.length := by
  induction i generalizing x a with
  | zero => rfl
  | succ i ih => simp [shuffleFrom, ih]

@[simp] theorem shuffle_length (c : Config) (n : Nat) (seed : Word) : (shuffle c n seed).length = n := by
  simp [shuffle]

@[simp] theorem sboxGen_length (c : Config) (k : Bytes) : (sboxGen c k).length = 16 := by simp [sboxGen]
@[simp] theorem pboxGen_length (c : Config) (k : Bytes) : (pboxGen c k).length = 64 := by simp [pboxGen]

theorem invertFrom_length {n i : Nat} {rest : List Nat} {inv : List (Option Nat)} {u : List Nat}
    (h : invertFrom n i rest inv = .ok u) : u.length = inv.length := by
  induction rest generalizing i inv with
  | nil => simp only [invertFrom, InvertResult.ok.injEq] at h; simp [← h]
  | cons v rest ih =>
    simp only [invertFrom] at h
    split at h
    · cases h
    · split at h
      · cases h
      · simpa using ih h

theorem tableInvert_length {t u : List Nat} {n : Nat} (h : tableInvert t n = .ok u) : u.length = n := by
  simpa using invertFrom_length h

theorem InvertResult.check_eq_none_iff (r : InvertResult) : r.check = none ↔ ∃ u, r = .ok u := by
  cases r <;> simp [InvertResult.check]

/-! ## Byte strings -/

@[simp] theorem subNibbles_length (s : Bytes) (t : List Nat) : (subNibbles s t).length = s.length := by
  simp [subNibbles]

@[simp] theorem permuteBits_length (s : Bytes) (p : List Nat) : (permuteBits s p).length = 8 := by
  simp [permuteBits]

theorem bitAt_permuteBits (s : Bytes) (p : List Nat) (d : Nat) (h : d < 64) :
    bitAt (permuteBits s p) d = bitAt s (p.idxOf d) := by
  unfold permuteBits
  rw [bitAt_fromBits 8 _ d (by omega)]

@[simp] theorem normalizeKey_length (k : Bytes) : (normalizeKey k).length = 16 := by
  unfold normalizeKey; split <;> simp

@[simp] theorem genBytes_length (next : Word → Word) (out : Word → Byte) (n : Nat) (x : Word) :
    (genBytes next out n x).length = n := by
  induction n generalizing x with
  | zero => rfl
  | succ n ih => simp [genBytes, ih]

theorem genState_succ (next : Word → Word) (n : Nat) (x : Word) :
    genState next (n + 1) x = next (genState next n x) := by
  induction n generalizing x with
  | zero => rfl
  | succ n ih => exact ih (next x)

/-- Byte `k` of a generator is taken from its state after `k + 1` steps. -/
theorem genBytes_getElem (next : Word → Word) (out : Word → Byte) (n : Nat) (x : Word) (k : Nat)
    (h : k < (genBytes next out n x).length) : (genBytes next out n x)[k] = out (genState next (k + 1) x) := by
  induction n generalizing x k with
  | zero => simp [genBytes] at h
  | succ n ih =>
    cases k with
    | zero => rfl
    | succ k =>
      simp only [genBytes, List.getElem_cons_succ]
      rw [ih]
      rfl

@[simp] theorem roundConstant16_length (c : Config) (r : Word) : (roundConstant16 c r).length = 16 := by
  simp [roundConstant16]

@[simp] theorem rotL128_length (s : Bytes) (n : Nat) : (rotL128 s n).length = 16 := by simp [rotL128]

@[simp] theorem scheduleStep_length (c : Config) (sbox : List Nat) (r : Nat) (st : Bytes) :
    (scheduleStep c sbox r st).length = 16 := by
  simp [scheduleStep]

@[simp] theorem evenBytes_length (st : Bytes) : (evenBytes st).length = 8 := by simp [evenBytes]

@[simp] theorem subkeysFrom_length (c : Config) (sbox : List Nat) (n r : Nat) (st : Bytes) :
    (subkeysFrom c sbox n r st).length = n := by
  induction n generalizing r st with
  | zero => rfl
  | succ n ih => simp [subkeysFrom, ih]

@[simp] theorem deriveSubkeys_length (c : Config) (k : Bytes) (rounds : Nat) (sbox : List Nat) :
    (deriveSubkeys c k rounds sbox).length = rounds := by simp [deriveSubkeys]

theorem subkeysFrom_mem_length (c : Config) (sbox : List Nat) (n r : Nat) (st b : Bytes)
    (h : b ∈ subkeysFrom c sbox n r st) : b.length = 8 := by
  induction n generalizing r st with
  | zero => simp [subkeysFrom] at h
  | succ n ih =>
    simp only [subkeysFrom, List.mem_cons] at h
    rcases h with rfl | h
    · simp
    · exact ih _ _ h

@[simp] theorem constsFrom_length (c : Config) (n : Nat) (x : Word) : (constsFrom c n x).length = n := by
  induction n generalizing x with
  | zero => rfl
  | succ n ih => simp [constsFrom, ih]

@[simp] theorem deriveRoundConsts8_length (c : Config) (k : Bytes) (rounds : Nat) :
    (deriveRoundConsts8 c k rounds).length = rounds := by simp [deriveRoundConsts8]

theorem constsFrom_mem_length (c : Config) (n : Nat) (x : Word) (b : Bytes) (h : b ∈ constsFrom c n x) :
    b.length = 8 := by
  induction n generalizing x with
  | zero => simp [constsFrom] at h
  | succ n ih =>
    simp only [constsFrom, List.mem_cons] at h
    rcases h with rfl | h
    · simp
    · exact ih _ h

@[simp] theorem deriveRoundMasks_length (rcon : List Bytes) : (deriveRoundMasks rcon).length = rcon.length := by
  simp [deriveRoundMasks]

/-- Rows of eight bytes joined have eight bytes a row. -/
theorem flatten_length_of_rows (l : List Bytes) (h : ∀ b ∈ l, b.length = 8) : l.flatten.length = 8 * l.length := by
  induction l with
  | nil => rfl
  | cons b l ih =>
    have hb := h b (by simp)
    have := ih fun b' hb' => h b' (by simp [hb'])
    simp [hb, this]; omega

/-! ## Rounds -/

@[simp] theorem moveNibbles_length (s : Bytes) (f : Nat → Nat) : (moveNibbles s f).length = 8 := by
  unfold moveNibbles
  exact fromNibbles_length 8 _ (by simp)

@[simp] theorem stOffset_length (s : Bytes) : (stOffset s).length = 8 := by simp [stOffset]
@[simp] theorem stInvOffset_length (s : Bytes) : (stInvOffset s).length = 8 := by simp [stInvOffset]
@[simp] theorem stNibShuf_length (s : Bytes) (m : Byte) : (stNibShuf s m).length = s.length := by simp [stNibShuf]

/-- The inverse round always leaves an 8-byte State. -/
@[simp] theorem roundInv_length (s : Bytes) (r : Nat) (p : RoundParams) : (roundInv s r p).length = 8 := by
  simp [roundInv, roundInvTrace, stInvSub]

/-- The forward round leaves as many bytes as the constant has, at most 8. -/
@[simp] theorem roundFwd_length (s : Bytes) (r : Nat) (p : RoundParams) :
    (roundFwd s r p).length = min 8 (p.rconAt r).length := by
  simp [roundFwd, roundFwdTrace, stAddConst, stTranspose]

/-! ## Padding -/

@[simp] theorem pad_length (m : Bytes) : (pad m).length = m.length + (8 - m.length % 8) := by simp [pad]

/-- The padded length is a positive multiple of 8 (R261). -/
theorem pad_length_eq (m : Bytes) : (pad m).length = 8 * (m.length / 8 + 1) := by
  rw [pad_length]; omega

end Sys2Proof.Machine
end

