-- ==== Sys2Proof/Laws/State.lean ====
section
/-! SUPPORT. One lemma per field of State per named update (Machine/Ops.lean, Flags.lean, Operands.lean, Round.lean,
Block.lean, Avalanche.lean, Port.lean), each true by rfl (Regen's memories by unfolding Regen
only) and a simp lemma, so that no proof unfolds a record update. -/

namespace Sys2Proof.Machine

/-! ### fault entry -/

@[simp] theorem State.takeFault_cfg (s : State) (c : FaultCode) (w : Word) :
    (s.takeFault c w).cfg = s.cfg := rfl
@[simp] theorem State.takeFault_port (s : State) (c : FaultCode) (w : Word) :
    (s.takeFault c w).port = s.port := rfl
@[simp] theorem State.takeFault_status (s : State) (c : FaultCode) (w : Word) :
    (s.takeFault c w).status = { s.status with err := c, done := false, busy := false } := rfl
@[simp] theorem State.takeFault_rounds (s : State) (c : FaultCode) (w : Word) :
    (s.takeFault c w).rounds = s.rounds := rfl
@[simp] theorem State.takeFault_keylen (s : State) (c : FaultCode) (w : Word) :
    (s.takeFault c w).keylen = s.keylen := rfl
@[simp] theorem State.takeFault_ilen (s : State) (c : FaultCode) (w : Word) :
    (s.takeFault c w).ilen = s.ilen := rfl
@[simp] theorem State.takeFault_ridx (s : State) (c : FaultCode) (w : Word) :
    (s.takeFault c w).ridx = s.ridx := rfl
@[simp] theorem State.takeFault_bitidx (s : State) (c : FaultCode) (w : Word) :
    (s.takeFault c w).bitidx = s.bitidx := rfl
@[simp] theorem State.takeFault_olen (s : State) (c : FaultCode) (w : Word) :
    (s.takeFault c w).olen = s.olen := rfl
@[simp] theorem State.takeFault_finfo (s : State) (c : FaultCode) (w : Word) :
    (s.takeFault c w).finfo = w := rfl
@[simp] theorem State.takeFault_avDiff (s : State) (c : FaultCode) (w : Word) :
    (s.takeFault c w).avDiff = s.avDiff := rfl
@[simp] theorem State.takeFault_avTotal (s : State) (c : FaultCode) (w : Word) :
    (s.takeFault c w).avTotal = s.avTotal := rfl
@[simp] theorem State.takeFault_avPct (s : State) (c : FaultCode) (w : Word) :
    (s.takeFault c w).avPct = s.avPct := rfl
@[simp] theorem State.takeFault_kmem (s : State) (c : FaultCode) (w : Word) :
    (s.takeFault c w).kmem = s.kmem := rfl
@[simp] theorem State.takeFault_iv (s : State) (c : FaultCode) (w : Word) :
    (s.takeFault c w).iv = s.iv := rfl
@[simp] theorem State.takeFault_sbox (s : State) (c : FaultCode) (w : Word) :
    (s.takeFault c w).sbox = s.sbox := rfl
@[simp] theorem State.takeFault_isbox (s : State) (c : FaultCode) (w : Word) :
    (s.takeFault c w).isbox = s.isbox := rfl
@[simp] theorem State.takeFault_pbox (s : State) (c : FaultCode) (w : Word) :
    (s.takeFault c w).pbox = s.pbox := rfl
@[simp] theorem State.takeFault_ipbox (s : State) (c : FaultCode) (w : Word) :
    (s.takeFault c w).ipbox = s.ipbox := rfl
@[simp] theorem State.takeFault_nkey (s : State) (c : FaultCode) (w : Word) :
    (s.takeFault c w).nkey = s.nkey := rfl
@[simp] theorem State.takeFault_rc16 (s : State) (c : FaultCode) (w : Word) :
    (s.takeFault c w).rc16 = s.rc16 := rfl
@[simp] theorem State.takeFault_rk (s : State) (c : FaultCode) (w : Word) :
    (s.takeFault c w).rk = s.rk := rfl
@[simp] theorem State.takeFault_rcon (s : State) (c : FaultCode) (w : Word) :
    (s.takeFault c w).rcon = s.rcon := rfl
@[simp] theorem State.takeFault_mask (s : State) (c : FaultCode) (w : Word) :
    (s.takeFault c w).mask = s.mask := rfl
@[simp] theorem State.takeFault_ibuf (s : State) (c : FaultCode) (w : Word) :
    (s.takeFault c w).ibuf = s.ibuf := rfl
@[simp] theorem State.takeFault_obuf (s : State) (c : FaultCode) (w : Word) :
    (s.takeFault c w).obuf = s.obuf := rfl
@[simp] theorem State.takeFault_cnt (s : State) (c : FaultCode) (w : Word) :
    (s.takeFault c w).cnt = s.cnt := rfl
@[simp] theorem State.takeFault_trace (s : State) (c : FaultCode) (w : Word) :
    (s.takeFault c w).trace = s.trace := rfl

/-! ### completion -/

@[simp] theorem State.complete_cfg (s : State) :
    (s.complete).cfg = s.cfg := rfl
@[simp] theorem State.complete_port (s : State) :
    (s.complete).port = s.port := rfl
@[simp] theorem State.complete_status (s : State) :
    (s.complete).status = { s.status with done := true } := rfl
@[simp] theorem State.complete_rounds (s : State) :
    (s.complete).rounds = s.rounds := rfl
@[simp] theorem State.complete_keylen (s : State) :
    (s.complete).keylen = s.keylen := rfl
@[simp] theorem State.complete_ilen (s : State) :
    (s.complete).ilen = s.ilen := rfl
@[simp] theorem State.complete_ridx (s : State) :
    (s.complete).ridx = s.ridx := rfl
@[simp] theorem State.complete_bitidx (s : State) :
    (s.complete).bitidx = s.bitidx := rfl
@[simp] theorem State.complete_olen (s : State) :
    (s.complete).olen = s.olen := rfl
@[simp] theorem State.complete_finfo (s : State) :
    (s.complete).finfo = s.finfo := rfl
@[simp] theorem State.complete_avDiff (s : State) :
    (s.complete).avDiff = s.avDiff := rfl
@[simp] theorem State.complete_avTotal (s : State) :
    (s.complete).avTotal = s.avTotal := rfl
@[simp] theorem State.complete_avPct (s : State) :
    (s.complete).avPct = s.avPct := rfl
@[simp] theorem State.complete_kmem (s : State) :
    (s.complete).kmem = s.kmem := rfl
@[simp] theorem State.complete_iv (s : State) :
    (s.complete).iv = s.iv := rfl
@[simp] theorem State.complete_sbox (s : State) :
    (s.complete).sbox = s.sbox := rfl
@[simp] theorem State.complete_isbox (s : State) :
    (s.complete).isbox = s.isbox := rfl
@[simp] theorem State.complete_pbox (s : State) :
    (s.complete).pbox = s.pbox := rfl
@[simp] theorem State.complete_ipbox (s : State) :
    (s.complete).ipbox = s.ipbox := rfl
@[simp] theorem State.complete_nkey (s : State) :
    (s.complete).nkey = s.nkey := rfl
@[simp] theorem State.complete_rc16 (s : State) :
    (s.complete).rc16 = s.rc16 := rfl
@[simp] theorem State.complete_rk (s : State) :
    (s.complete).rk = s.rk := rfl
@[simp] theorem State.complete_rcon (s : State) :
    (s.complete).rcon = s.rcon := rfl
@[simp] theorem State.complete_mask (s : State) :
    (s.complete).mask = s.mask := rfl
@[simp] theorem State.complete_ibuf (s : State) :
    (s.complete).ibuf = s.ibuf := rfl
@[simp] theorem State.complete_obuf (s : State) :
    (s.complete).obuf = s.obuf := rfl
@[simp] theorem State.complete_cnt (s : State) :
    (s.complete).cnt = s.cnt := rfl
@[simp] theorem State.complete_trace (s : State) :
    (s.complete).trace = s.trace := rfl

/-! ### a flag event -/

@[simp] theorem State.flagEvent_cfg (s : State) (e : FlagEvent) :
    (s.flagEvent e).cfg = s.cfg := rfl
@[simp] theorem State.flagEvent_port (s : State) (e : FlagEvent) :
    (s.flagEvent e).port = s.port := rfl
@[simp] theorem State.flagEvent_status (s : State) (e : FlagEvent) :
    (s.flagEvent e).status = s.status.flags e := rfl
@[simp] theorem State.flagEvent_rounds (s : State) (e : FlagEvent) :
    (s.flagEvent e).rounds = s.rounds := rfl
@[simp] theorem State.flagEvent_keylen (s : State) (e : FlagEvent) :
    (s.flagEvent e).keylen = s.keylen := rfl
@[simp] theorem State.flagEvent_ilen (s : State) (e : FlagEvent) :
    (s.flagEvent e).ilen = s.ilen := rfl
@[simp] theorem State.flagEvent_ridx (s : State) (e : FlagEvent) :
    (s.flagEvent e).ridx = s.ridx := rfl
@[simp] theorem State.flagEvent_bitidx (s : State) (e : FlagEvent) :
    (s.flagEvent e).bitidx = s.bitidx := rfl
@[simp] theorem State.flagEvent_olen (s : State) (e : FlagEvent) :
    (s.flagEvent e).olen = s.olen := rfl
@[simp] theorem State.flagEvent_finfo (s : State) (e : FlagEvent) :
    (s.flagEvent e).finfo = s.finfo := rfl
@[simp] theorem State.flagEvent_avDiff (s : State) (e : FlagEvent) :
    (s.flagEvent e).avDiff = s.avDiff := rfl
@[simp] theorem State.flagEvent_avTotal (s : State) (e : FlagEvent) :
    (s.flagEvent e).avTotal = s.avTotal := rfl
@[simp] theorem State.flagEvent_avPct (s : State) (e : FlagEvent) :
    (s.flagEvent e).avPct = s.avPct := rfl
@[simp] theorem State.flagEvent_kmem (s : State) (e : FlagEvent) :
    (s.flagEvent e).kmem = s.kmem := rfl
@[simp] theorem State.flagEvent_iv (s : State) (e : FlagEvent) :
    (s.flagEvent e).iv = s.iv := rfl
@[simp] theorem State.flagEvent_sbox (s : State) (e : FlagEvent) :
    (s.flagEvent e).sbox = s.sbox := rfl
@[simp] theorem State.flagEvent_isbox (s : State) (e : FlagEvent) :
    (s.flagEvent e).isbox = s.isbox := rfl
@[simp] theorem State.flagEvent_pbox (s : State) (e : FlagEvent) :
    (s.flagEvent e).pbox = s.pbox := rfl
@[simp] theorem State.flagEvent_ipbox (s : State) (e : FlagEvent) :
    (s.flagEvent e).ipbox = s.ipbox := rfl
@[simp] theorem State.flagEvent_nkey (s : State) (e : FlagEvent) :
    (s.flagEvent e).nkey = s.nkey := rfl
@[simp] theorem State.flagEvent_rc16 (s : State) (e : FlagEvent) :
    (s.flagEvent e).rc16 = s.rc16 := rfl
@[simp] theorem State.flagEvent_rk (s : State) (e : FlagEvent) :
    (s.flagEvent e).rk = s.rk := rfl
@[simp] theorem State.flagEvent_rcon (s : State) (e : FlagEvent) :
    (s.flagEvent e).rcon = s.rcon := rfl
@[simp] theorem State.flagEvent_mask (s : State) (e : FlagEvent) :
    (s.flagEvent e).mask = s.mask := rfl
@[simp] theorem State.flagEvent_ibuf (s : State) (e : FlagEvent) :
    (s.flagEvent e).ibuf = s.ibuf := rfl
@[simp] theorem State.flagEvent_obuf (s : State) (e : FlagEvent) :
    (s.flagEvent e).obuf = s.obuf := rfl
@[simp] theorem State.flagEvent_cnt (s : State) (e : FlagEvent) :
    (s.flagEvent e).cnt = s.cnt := rfl
@[simp] theorem State.flagEvent_trace (s : State) (e : FlagEvent) :
    (s.flagEvent e).trace = s.trace := rfl

/-! ### an output -/

@[simp] theorem State.putOutput_cfg (s : State) (bs : Bytes) :
    (s.putOutput bs).cfg = s.cfg := rfl
@[simp] theorem State.putOutput_port (s : State) (bs : Bytes) :
    (s.putOutput bs).port = s.port := rfl
@[simp] theorem State.putOutput_status (s : State) (bs : Bytes) :
    (s.putOutput bs).status = s.status := rfl
@[simp] theorem State.putOutput_rounds (s : State) (bs : Bytes) :
    (s.putOutput bs).rounds = s.rounds := rfl
@[simp] theorem State.putOutput_keylen (s : State) (bs : Bytes) :
    (s.putOutput bs).keylen = s.keylen := rfl
@[simp] theorem State.putOutput_ilen (s : State) (bs : Bytes) :
    (s.putOutput bs).ilen = s.ilen := rfl
@[simp] theorem State.putOutput_ridx (s : State) (bs : Bytes) :
    (s.putOutput bs).ridx = s.ridx := rfl
@[simp] theorem State.putOutput_bitidx (s : State) (bs : Bytes) :
    (s.putOutput bs).bitidx = s.bitidx := rfl
@[simp] theorem State.putOutput_olen (s : State) (bs : Bytes) :
    (s.putOutput bs).olen = BitVec.ofNat 32 bs.length := rfl
@[simp] theorem State.putOutput_finfo (s : State) (bs : Bytes) :
    (s.putOutput bs).finfo = s.finfo := rfl
@[simp] theorem State.putOutput_avDiff (s : State) (bs : Bytes) :
    (s.putOutput bs).avDiff = s.avDiff := rfl
@[simp] theorem State.putOutput_avTotal (s : State) (bs : Bytes) :
    (s.putOutput bs).avTotal = s.avTotal := rfl
@[simp] theorem State.putOutput_avPct (s : State) (bs : Bytes) :
    (s.putOutput bs).avPct = s.avPct := rfl
@[simp] theorem State.putOutput_kmem (s : State) (bs : Bytes) :
    (s.putOutput bs).kmem = s.kmem := rfl
@[simp] theorem State.putOutput_iv (s : State) (bs : Bytes) :
    (s.putOutput bs).iv = s.iv := rfl
@[simp] theorem State.putOutput_sbox (s : State) (bs : Bytes) :
    (s.putOutput bs).sbox = s.sbox := rfl
@[simp] theorem State.putOutput_isbox (s : State) (bs : Bytes) :
    (s.putOutput bs).isbox = s.isbox := rfl
@[simp] theorem State.putOutput_pbox (s : State) (bs : Bytes) :
    (s.putOutput bs).pbox = s.pbox := rfl
@[simp] theorem State.putOutput_ipbox (s : State) (bs : Bytes) :
    (s.putOutput bs).ipbox = s.ipbox := rfl
@[simp] theorem State.putOutput_nkey (s : State) (bs : Bytes) :
    (s.putOutput bs).nkey = s.nkey := rfl
@[simp] theorem State.putOutput_rc16 (s : State) (bs : Bytes) :
    (s.putOutput bs).rc16 = s.rc16 := rfl
@[simp] theorem State.putOutput_rk (s : State) (bs : Bytes) :
    (s.putOutput bs).rk = s.rk := rfl
@[simp] theorem State.putOutput_rcon (s : State) (bs : Bytes) :
    (s.putOutput bs).rcon = s.rcon := rfl
@[simp] theorem State.putOutput_mask (s : State) (bs : Bytes) :
    (s.putOutput bs).mask = s.mask := rfl
@[simp] theorem State.putOutput_ibuf (s : State) (bs : Bytes) :
    (s.putOutput bs).ibuf = s.ibuf := rfl
@[simp] theorem State.putOutput_obuf (s : State) (bs : Bytes) :
    (s.putOutput bs).obuf = s.obuf.writeBytes 0 bs := rfl
@[simp] theorem State.putOutput_cnt (s : State) (bs : Bytes) :
    (s.putOutput bs).cnt = s.cnt := rfl
@[simp] theorem State.putOutput_trace (s : State) (bs : Bytes) :
    (s.putOutput bs).trace = s.trace := rfl

/-! ### a trace record -/

@[simp] theorem State.putTrace_cfg (s : State) (r : Nat) (t : RoundTrace) :
    (s.putTrace r t).cfg = s.cfg := rfl
@[simp] theorem State.putTrace_port (s : State) (r : Nat) (t : RoundTrace) :
    (s.putTrace r t).port = s.port := rfl
@[simp] theorem State.putTrace_status (s : State) (r : Nat) (t : RoundTrace) :
    (s.putTrace r t).status = s.status := rfl
@[simp] theorem State.putTrace_rounds (s : State) (r : Nat) (t : RoundTrace) :
    (s.putTrace r t).rounds = s.rounds := rfl
@[simp] theorem State.putTrace_keylen (s : State) (r : Nat) (t : RoundTrace) :
    (s.putTrace r t).keylen = s.keylen := rfl
@[simp] theorem State.putTrace_ilen (s : State) (r : Nat) (t : RoundTrace) :
    (s.putTrace r t).ilen = s.ilen := rfl
@[simp] theorem State.putTrace_ridx (s : State) (r : Nat) (t : RoundTrace) :
    (s.putTrace r t).ridx = s.ridx := rfl
@[simp] theorem State.putTrace_bitidx (s : State) (r : Nat) (t : RoundTrace) :
    (s.putTrace r t).bitidx = s.bitidx := rfl
@[simp] theorem State.putTrace_olen (s : State) (r : Nat) (t : RoundTrace) :
    (s.putTrace r t).olen = s.olen := rfl
@[simp] theorem State.putTrace_finfo (s : State) (r : Nat) (t : RoundTrace) :
    (s.putTrace r t).finfo = s.finfo := rfl
@[simp] theorem State.putTrace_avDiff (s : State) (r : Nat) (t : RoundTrace) :
    (s.putTrace r t).avDiff = s.avDiff := rfl
@[simp] theorem State.putTrace_avTotal (s : State) (r : Nat) (t : RoundTrace) :
    (s.putTrace r t).avTotal = s.avTotal := rfl
@[simp] theorem State.putTrace_avPct (s : State) (r : Nat) (t : RoundTrace) :
    (s.putTrace r t).avPct = s.avPct := rfl
@[simp] theorem State.putTrace_kmem (s : State) (r : Nat) (t : RoundTrace) :
    (s.putTrace r t).kmem = s.kmem := rfl
@[simp] theorem State.putTrace_iv (s : State) (r : Nat) (t : RoundTrace) :
    (s.putTrace r t).iv = s.iv := rfl
@[simp] theorem State.putTrace_sbox (s : State) (r : Nat) (t : RoundTrace) :
    (s.putTrace r t).sbox = s.sbox := rfl
@[simp] theorem State.putTrace_isbox (s : State) (r : Nat) (t : RoundTrace) :
    (s.putTrace r t).isbox = s.isbox := rfl
@[simp] theorem State.putTrace_pbox (s : State) (r : Nat) (t : RoundTrace) :
    (s.putTrace r t).pbox = s.pbox := rfl
@[simp] theorem State.putTrace_ipbox (s : State) (r : Nat) (t : RoundTrace) :
    (s.putTrace r t).ipbox = s.ipbox := rfl
@[simp] theorem State.putTrace_nkey (s : State) (r : Nat) (t : RoundTrace) :
    (s.putTrace r t).nkey = s.nkey := rfl
@[simp] theorem State.putTrace_rc16 (s : State) (r : Nat) (t : RoundTrace) :
    (s.putTrace r t).rc16 = s.rc16 := rfl
@[simp] theorem State.putTrace_rk (s : State) (r : Nat) (t : RoundTrace) :
    (s.putTrace r t).rk = s.rk := rfl
@[simp] theorem State.putTrace_rcon (s : State) (r : Nat) (t : RoundTrace) :
    (s.putTrace r t).rcon = s.rcon := rfl
@[simp] theorem State.putTrace_mask (s : State) (r : Nat) (t : RoundTrace) :
    (s.putTrace r t).mask = s.mask := rfl
@[simp] theorem State.putTrace_ibuf (s : State) (r : Nat) (t : RoundTrace) :
    (s.putTrace r t).ibuf = s.ibuf := rfl
@[simp] theorem State.putTrace_obuf (s : State) (r : Nat) (t : RoundTrace) :
    (s.putTrace r t).obuf = s.obuf := rfl
@[simp] theorem State.putTrace_cnt (s : State) (r : Nat) (t : RoundTrace) :
    (s.putTrace r t).cnt = s.cnt := rfl
@[simp] theorem State.putTrace_trace (s : State) (r : Nat) (t : RoundTrace) :
    (s.putTrace r t).trace = s.trace.writeBytes (48 * r) t.bytes := rfl

/-! ### Regen -/

@[simp] theorem State.regen_cfg (s : State) :
    (s.regen).cfg = s.cfg := rfl
@[simp] theorem State.regen_port (s : State) :
    (s.regen).port = s.port := rfl
@[simp] theorem State.regen_status (s : State) :
    (s.regen).status = s.status.flags .regen := rfl
@[simp] theorem State.regen_rounds (s : State) :
    (s.regen).rounds = s.rounds := rfl
@[simp] theorem State.regen_keylen (s : State) :
    (s.regen).keylen = s.keylen := rfl
@[simp] theorem State.regen_ilen (s : State) :
    (s.regen).ilen = s.ilen := rfl
@[simp] theorem State.regen_ridx (s : State) :
    (s.regen).ridx = s.ridx := rfl
@[simp] theorem State.regen_bitidx (s : State) :
    (s.regen).bitidx = s.bitidx := rfl
@[simp] theorem State.regen_olen (s : State) :
    (s.regen).olen = s.olen := rfl
@[simp] theorem State.regen_finfo (s : State) :
    (s.regen).finfo = s.finfo := rfl
@[simp] theorem State.regen_avDiff (s : State) :
    (s.regen).avDiff = s.avDiff := rfl
@[simp] theorem State.regen_avTotal (s : State) :
    (s.regen).avTotal = s.avTotal := rfl
@[simp] theorem State.regen_avPct (s : State) :
    (s.regen).avPct = s.avPct := rfl
@[simp] theorem State.regen_kmem (s : State) :
    (s.regen).kmem = s.kmem := rfl
@[simp] theorem State.regen_iv (s : State) :
    (s.regen).iv = s.iv := rfl
@[simp] theorem State.regen_sbox (s : State) :
    (s.regen).sbox = s.sbox.writeBytes 0 (tableBytes s.keyParams.sbox) := by
  rw [State.regen]
@[simp] theorem State.regen_isbox (s : State) :
    (s.regen).isbox = s.isbox.writeBytes 0 (tableBytes s.keyParams.isbox) := by
  rw [State.regen]
@[simp] theorem State.regen_pbox (s : State) :
    (s.regen).pbox = s.pbox.writeBytes 0 (tableBytes s.keyParams.pbox) := by
  rw [State.regen]
@[simp] theorem State.regen_ipbox (s : State) :
    (s.regen).ipbox = s.ipbox.writeBytes 0 (tableBytes s.keyParams.ipbox) := by
  rw [State.regen]
@[simp] theorem State.regen_nkey (s : State) :
    (s.regen).nkey = s.nkey := rfl
@[simp] theorem State.regen_rc16 (s : State) :
    (s.regen).rc16 = s.rc16 := rfl
@[simp] theorem State.regen_rk (s : State) :
    (s.regen).rk = s.rk.writeBytes 0 s.keyParams.rk.flatten := by
  rw [State.regen]
@[simp] theorem State.regen_rcon (s : State) :
    (s.regen).rcon = s.rcon.writeBytes 0 s.keyParams.rcon.flatten := by
  rw [State.regen]
@[simp] theorem State.regen_mask (s : State) :
    (s.regen).mask = s.mask.writeBytes 0 s.keyParams.mask := by
  rw [State.regen]
@[simp] theorem State.regen_ibuf (s : State) :
    (s.regen).ibuf = s.ibuf := rfl
@[simp] theorem State.regen_obuf (s : State) :
    (s.regen).obuf = s.obuf := rfl
@[simp] theorem State.regen_cnt (s : State) :
    (s.regen).cnt = s.cnt := rfl
@[simp] theorem State.regen_trace (s : State) :
    (s.regen).trace = s.trace := rfl

/-! ### an avalanche report -/

@[simp] theorem State.putReport_cfg (s : State) (a : AvalancheReport) :
    (s.putReport a).cfg = s.cfg := rfl
@[simp] theorem State.putReport_port (s : State) (a : AvalancheReport) :
    (s.putReport a).port = s.port := rfl
@[simp] theorem State.putReport_status (s : State) (a : AvalancheReport) :
    (s.putReport a).status = s.status := rfl
@[simp] theorem State.putReport_rounds (s : State) (a : AvalancheReport) :
    (s.putReport a).rounds = s.rounds := rfl
@[simp] theorem State.putReport_keylen (s : State) (a : AvalancheReport) :
    (s.putReport a).keylen = s.keylen := rfl
@[simp] theorem State.putReport_ilen (s : State) (a : AvalancheReport) :
    (s.putReport a).ilen = s.ilen := rfl
@[simp] theorem State.putReport_ridx (s : State) (a : AvalancheReport) :
    (s.putReport a).ridx = s.ridx := rfl
@[simp] theorem State.putReport_bitidx (s : State) (a : AvalancheReport) :
    (s.putReport a).bitidx = s.bitidx := rfl
@[simp] theorem State.putReport_olen (s : State) (a : AvalancheReport) :
    (s.putReport a).olen = BitVec.ofNat 32 a.base.length := rfl
@[simp] theorem State.putReport_finfo (s : State) (a : AvalancheReport) :
    (s.putReport a).finfo = s.finfo := rfl
@[simp] theorem State.putReport_avDiff (s : State) (a : AvalancheReport) :
    (s.putReport a).avDiff = BitVec.ofNat 32 a.diff := rfl
@[simp] theorem State.putReport_avTotal (s : State) (a : AvalancheReport) :
    (s.putReport a).avTotal = BitVec.ofNat 32 a.total := rfl
@[simp] theorem State.putReport_avPct (s : State) (a : AvalancheReport) :
    (s.putReport a).avPct = BitVec.ofNat 32 a.percent := rfl
@[simp] theorem State.putReport_kmem (s : State) (a : AvalancheReport) :
    (s.putReport a).kmem = s.kmem := rfl
@[simp] theorem State.putReport_iv (s : State) (a : AvalancheReport) :
    (s.putReport a).iv = s.iv := rfl
@[simp] theorem State.putReport_sbox (s : State) (a : AvalancheReport) :
    (s.putReport a).sbox = s.sbox := rfl
@[simp] theorem State.putReport_isbox (s : State) (a : AvalancheReport) :
    (s.putReport a).isbox = s.isbox := rfl
@[simp] theorem State.putReport_pbox (s : State) (a : AvalancheReport) :
    (s.putReport a).pbox = s.pbox := rfl
@[simp] theorem State.putReport_ipbox (s : State) (a : AvalancheReport) :
    (s.putReport a).ipbox = s.ipbox := rfl
@[simp] theorem State.putReport_nkey (s : State) (a : AvalancheReport) :
    (s.putReport a).nkey = s.nkey := rfl
@[simp] theorem State.putReport_rc16 (s : State) (a : AvalancheReport) :
    (s.putReport a).rc16 = s.rc16 := rfl
@[simp] theorem State.putReport_rk (s : State) (a : AvalancheReport) :
    (s.putReport a).rk = s.rk := rfl
@[simp] theorem State.putReport_rcon (s : State) (a : AvalancheReport) :
    (s.putReport a).rcon = s.rcon := rfl
@[simp] theorem State.putReport_mask (s : State) (a : AvalancheReport) :
    (s.putReport a).mask = s.mask := rfl
@[simp] theorem State.putReport_ibuf (s : State) (a : AvalancheReport) :
    (s.putReport a).ibuf = s.ibuf := rfl
@[simp] theorem State.putReport_obuf (s : State) (a : AvalancheReport) :
    (s.putReport a).obuf = s.obuf.writeBytes 0 a.base := rfl
@[simp] theorem State.putReport_cnt (s : State) (a : AvalancheReport) :
    (s.putReport a).cnt = s.cnt.writeBytes 0 (a.cnt.map (BitVec.ofNat 8)) := rfl
@[simp] theorem State.putReport_trace (s : State) (a : AvalancheReport) :
    (s.putReport a).trace = s.trace := rfl

/-! ### taking up a port event -/

@[simp] theorem State.accept_cfg (s : State) (rest : List PortEvent) :
    (s.accept rest).cfg = s.cfg := rfl
@[simp] theorem State.accept_port (s : State) (rest : List PortEvent) :
    (s.accept rest).port = { pending := rest, response := none } := rfl
@[simp] theorem State.accept_status (s : State) (rest : List PortEvent) :
    (s.accept rest).status = s.status := rfl
@[simp] theorem State.accept_rounds (s : State) (rest : List PortEvent) :
    (s.accept rest).rounds = s.rounds := rfl
@[simp] theorem State.accept_keylen (s : State) (rest : List PortEvent) :
    (s.accept rest).keylen = s.keylen := rfl
@[simp] theorem State.accept_ilen (s : State) (rest : List PortEvent) :
    (s.accept rest).ilen = s.ilen := rfl
@[simp] theorem State.accept_ridx (s : State) (rest : List PortEvent) :
    (s.accept rest).ridx = s.ridx := rfl
@[simp] theorem State.accept_bitidx (s : State) (rest : List PortEvent) :
    (s.accept rest).bitidx = s.bitidx := rfl
@[simp] theorem State.accept_olen (s : State) (rest : List PortEvent) :
    (s.accept rest).olen = s.olen := rfl
@[simp] theorem State.accept_finfo (s : State) (rest : List PortEvent) :
    (s.accept rest).finfo = s.finfo := rfl
@[simp] theorem State.accept_avDiff (s : State) (rest : List PortEvent) :
    (s.accept rest).avDiff = s.avDiff := rfl
@[simp] theorem State.accept_avTotal (s : State) (rest : List PortEvent) :
    (s.accept rest).avTotal = s.avTotal := rfl
@[simp] theorem State.accept_avPct (s : State) (rest : List PortEvent) :
    (s.accept rest).avPct = s.avPct := rfl
@[simp] theorem State.accept_kmem (s : State) (rest : List PortEvent) :
    (s.accept rest).kmem = s.kmem := rfl
@[simp] theorem State.accept_iv (s : State) (rest : List PortEvent) :
    (s.accept rest).iv = s.iv := rfl
@[simp] theorem State.accept_sbox (s : State) (rest : List PortEvent) :
    (s.accept rest).sbox = s.sbox := rfl
@[simp] theorem State.accept_isbox (s : State) (rest : List PortEvent) :
    (s.accept rest).isbox = s.isbox := rfl
@[simp] theorem State.accept_pbox (s : State) (rest : List PortEvent) :
    (s.accept rest).pbox = s.pbox := rfl
@[simp] theorem State.accept_ipbox (s : State) (rest : List PortEvent) :
    (s.accept rest).ipbox = s.ipbox := rfl
@[simp] theorem State.accept_nkey (s : State) (rest : List PortEvent) :
    (s.accept rest).nkey = s.nkey := rfl
@[simp] theorem State.accept_rc16 (s : State) (rest : List PortEvent) :
    (s.accept rest).rc16 = s.rc16 := rfl
@[simp] theorem State.accept_rk (s : State) (rest : List PortEvent) :
    (s.accept rest).rk = s.rk := rfl
@[simp] theorem State.accept_rcon (s : State) (rest : List PortEvent) :
    (s.accept rest).rcon = s.rcon := rfl
@[simp] theorem State.accept_mask (s : State) (rest : List PortEvent) :
    (s.accept rest).mask = s.mask := rfl
@[simp] theorem State.accept_ibuf (s : State) (rest : List PortEvent) :
    (s.accept rest).ibuf = s.ibuf := rfl
@[simp] theorem State.accept_obuf (s : State) (rest : List PortEvent) :
    (s.accept rest).obuf = s.obuf := rfl
@[simp] theorem State.accept_cnt (s : State) (rest : List PortEvent) :
    (s.accept rest).cnt = s.cnt := rfl
@[simp] theorem State.accept_trace (s : State) (rest : List PortEvent) :
    (s.accept rest).trace = s.trace := rfl

/-! ### the reset state -/

@[simp] theorem State.toReset_cfg (s : State) : s.toReset.cfg = s.cfg := rfl
@[simp] theorem State.toReset_port (s : State) : s.toReset.port = s.port := rfl
@[simp] theorem State.toReset_status (s : State) : s.toReset.status = Status.reset := rfl
@[simp] theorem State.toReset_rounds (s : State) : s.toReset.rounds = 0#32 := rfl
@[simp] theorem State.toReset_keylen (s : State) : s.toReset.keylen = 0#32 := rfl
@[simp] theorem State.toReset_ilen (s : State) : s.toReset.ilen = 0#32 := rfl
@[simp] theorem State.toReset_ridx (s : State) : s.toReset.ridx = 0#32 := rfl
@[simp] theorem State.toReset_bitidx (s : State) : s.toReset.bitidx = 0#32 := rfl
@[simp] theorem State.toReset_olen (s : State) : s.toReset.olen = 0#32 := rfl
@[simp] theorem State.toReset_finfo (s : State) : s.toReset.finfo = 0#32 := rfl
@[simp] theorem State.toReset_avDiff (s : State) : s.toReset.avDiff = 0#32 := rfl
@[simp] theorem State.toReset_avTotal (s : State) : s.toReset.avTotal = 0#32 := rfl
@[simp] theorem State.toReset_avPct (s : State) : s.toReset.avPct = 0#32 := rfl
@[simp] theorem State.toReset_kmem (s : State) : s.toReset.kmem = [] := rfl
@[simp] theorem State.toReset_iv (s : State) : s.toReset.iv = [] := rfl
@[simp] theorem State.toReset_sbox (s : State) : s.toReset.sbox = [] := rfl
@[simp] theorem State.toReset_isbox (s : State) : s.toReset.isbox = [] := rfl
@[simp] theorem State.toReset_pbox (s : State) : s.toReset.pbox = [] := rfl
@[simp] theorem State.toReset_ipbox (s : State) : s.toReset.ipbox = [] := rfl
@[simp] theorem State.toReset_nkey (s : State) : s.toReset.nkey = [] := rfl
@[simp] theorem State.toReset_rc16 (s : State) : s.toReset.rc16 = [] := rfl
@[simp] theorem State.toReset_rk (s : State) : s.toReset.rk = [] := rfl
@[simp] theorem State.toReset_rcon (s : State) : s.toReset.rcon = [] := rfl
@[simp] theorem State.toReset_mask (s : State) : s.toReset.mask = [] := rfl
@[simp] theorem State.toReset_ibuf (s : State) : s.toReset.ibuf = [] := rfl
@[simp] theorem State.toReset_obuf (s : State) : s.toReset.obuf = [] := rfl
@[simp] theorem State.toReset_cnt (s : State) : s.toReset.cnt = [] := rfl
@[simp] theorem State.toReset_trace (s : State) : s.toReset.trace = [] := rfl

/-! ### the engine is halted or not -/

@[simp] theorem State.complete_halted (s : State) : s.complete.halted = s.halted := rfl
@[simp] theorem State.flagEvent_halted (s : State) (e : FlagEvent) : (s.flagEvent e).halted = s.halted := by
  cases e <;> rfl
@[simp] theorem State.putOutput_halted (s : State) (bs : Bytes) : (s.putOutput bs).halted = s.halted := rfl
@[simp] theorem State.putTrace_halted (s : State) (r : Nat) (t : RoundTrace) :
    (s.putTrace r t).halted = s.halted := rfl
@[simp] theorem State.regen_halted (s : State) : s.regen.halted = s.halted := rfl
@[simp] theorem State.putReport_halted (s : State) (a : AvalancheReport) : (s.putReport a).halted = s.halted := rfl
@[simp] theorem State.accept_halted (s : State) (rest : List PortEvent) : (s.accept rest).halted = s.halted := rfl
@[simp] theorem State.toReset_halted (s : State) : s.toReset.halted = false := rfl

theorem State.halted_eq_false_iff (s : State) : s.halted = false ↔ s.status.err = FaultCode.noFault := by
  simp [State.halted]

theorem State.halted_eq_true_iff (s : State) : s.halted = true ↔ s.status.err ≠ FaultCode.noFault := by
  simp [State.halted]

/-! ### flag events change valid flags only -/

@[simp] theorem Status.flags_busy (st : Status) (e : FlagEvent) : (st.flags e).busy = st.busy := by cases e <;> rfl
@[simp] theorem Status.flags_done (st : Status) (e : FlagEvent) : (st.flags e).done = st.done := by cases e <;> rfl
@[simp] theorem Status.flags_err (st : Status) (e : FlagEvent) : (st.flags e).err = st.err := by cases e <;> rfl

end Sys2Proof.Machine
end

