-- ==== Sys2Proof/Laws/Command.lean ====
section
/-! SUPPORT. What the shared command operations can do (Machine/Ops.lean, Flags.lean, Operands.lean): one lemma each, cited
instead of unfolding the operation. -/

namespace Sys2Proof.Machine

@[simp] theorem firstFailure_nil : firstFailure [] = none := rfl
@[simp] theorem firstFailure_none (l : List (Option FaultRecord)) : firstFailure (none :: l) = firstFailure l := rfl
@[simp] theorem firstFailure_some (f : FaultRecord) (l : List (Option FaultRecord)) :
    firstFailure (some f :: l) = some f := rfl

/-- No check fails exactly when every check passes. -/
theorem firstFailure_eq_none_iff (l : List (Option FaultRecord)) :
    firstFailure l = none ↔ ∀ c ∈ l, c = none := by
  induction l with
  | nil => simp
  | cons c l ih => cases c <;> simp [ih]

/-- The reported failure is that of some check, and every check before it passes. -/
theorem firstFailure_eq_some_iff (l : List (Option FaultRecord)) (f : FaultRecord) :
    firstFailure l = some f ↔ ∃ pre post, l = pre ++ some f :: post ∧ ∀ c ∈ pre, c = none := by
  induction l with
  | nil => simp
  | cons c l ih =>
    cases c with
    | none =>
      rw [firstFailure_none, ih]
      constructor
      · rintro ⟨pre, post, rfl, h⟩
        exact ⟨none :: pre, post, rfl, by simpa using h⟩
      · rintro ⟨pre, post, heq, h⟩
        cases pre with
        | nil => simp at heq
        | cons a pre =>
          simp only [List.cons_append, List.cons.injEq] at heq
          exact ⟨pre, post, heq.2, fun c hc => h c (List.mem_cons_of_mem _ hc)⟩
    | some g =>
      rw [firstFailure_some]
      constructor
      · rintro h
        exact ⟨[], l, by simpa using h, by simp⟩
      · rintro ⟨pre, post, heq, h⟩
        cases pre with
        | nil => simpa using (List.cons.inj heq).1
        | cons a pre =>
          simp only [List.cons_append, List.cons.injEq] at heq
          have := h a (by simp)
          rw [this] at heq
          simp at heq

theorem runCommand_halted {s : State} (h : s.halted = true) (checks : List (Option FaultRecord)) (e : State) :
    runCommand s checks e = .next s := by
  simp [runCommand, h]

theorem runCommand_fault {s : State} (h : s.halted = false) {checks : List (Option FaultRecord)} {f : FaultRecord}
    (hf : firstFailure checks = some f) (e : State) : runCommand s checks e = .next (s.takeFault f.code f.info) := by
  simp [runCommand, h, hf]

theorem runCommand_completes {s : State} (h : s.halted = false) {checks : List (Option FaultRecord)}
    (hc : firstFailure checks = none) (e : State) : runCommand s checks e = .next e.complete := by
  simp [runCommand, h, hc]

/-- Everything a command can do (60_exceptions R320): a halted engine ignores it, the first failing check is taken as a
fault, or its effect is completed. -/
theorem runCommand_cases (s : State) (checks : List (Option FaultRecord)) (e : State) :
    (s.halted = true ∧ runCommand s checks e = .next s) ∨
    (s.halted = false ∧ ∃ f, firstFailure checks = some f ∧
      runCommand s checks e = .next (s.takeFault f.code f.info)) ∨
    (s.halted = false ∧ firstFailure checks = none ∧ runCommand s checks e = .next e.complete) := by
  cases h : s.halted with
  | true => exact .inl ⟨rfl, runCommand_halted h checks e⟩
  | false =>
    cases hf : firstFailure checks with
    | some f => exact .inr (.inl ⟨rfl, f, rfl, runCommand_fault h hf e⟩)
    | none => exact .inr (.inr ⟨rfl, rfl, runCommand_completes h hf e⟩)

/-- Everything a completed-or-faulted command leaves when it answers a state `t`. -/
theorem runCommand_inv {s t : State} {checks : List (Option FaultRecord)} {e : State}
    (h : runCommand s checks e = .next t) :
    (s.halted = true ∧ t = s) ∨
    (s.halted = false ∧ ∃ f, firstFailure checks = some f ∧ t = s.takeFault f.code f.info) ∨
    (s.halted = false ∧ firstFailure checks = none ∧ t = e.complete) := by
  rcases runCommand_cases s checks e with ⟨hh, he⟩ | ⟨hh, f, hf, he⟩ | ⟨hh, hf, he⟩ <;>
    rw [he] at h <;> cases h
  · exact .inl ⟨hh, rfl⟩
  · exact .inr (.inl ⟨hh, f, hf, rfl⟩)
  · exact .inr (.inr ⟨hh, hf, rfl⟩)

/-! ## When a check passes -/

theorem State.checkKeylen_eq_none_iff (s : State) : s.checkKeylen = none ↔ s.KeyOk := by
  unfold State.checkKeylen State.KeyOk; split <;> simp [*]

theorem State.checkRounds_eq_none_iff (s : State) : s.checkRounds = none ↔ s.RoundsOk := by
  unfold State.checkRounds State.RoundsOk; split <;> simp [*]

theorem State.checkRidx_eq_none_iff (s : State) : s.checkRidx = none ↔ s.ridx.toNat < s.rounds.toNat := by
  unfold State.checkRidx; split <;> simp [*]

theorem State.checkBlockLen_eq_none_iff (s : State) : s.checkBlockLen = none ↔ s.ilen.toNat = 8 := by
  unfold State.checkBlockLen; split <;> simp [*]

theorem State.checkInputLen_eq_none_iff (s : State) : s.checkInputLen = none ↔ s.ilen.toNat ≤ s.cfg.bufCap := by
  unfold State.checkInputLen; split <;> simp [*]

theorem State.checkPadLen_eq_none_iff (s : State) : s.checkPadLen = none ↔ s.ilen.toNat + 8 ≤ s.cfg.bufCap := by
  unfold State.checkPadLen; split <;> simp [*]

theorem State.checkFormat_eq_none_iff (s : State) :
    s.checkFormat = none ↔ 0 < s.ilen.toNat ∧ s.ilen.toNat % 8 = 0 := by
  unfold State.checkFormat; split <;> simp [*]

theorem State.checkBitidx_eq_none_iff (s : State) (len : Nat) :
    s.checkBitidx len = none ↔ s.bitidx.toNat < 8 * len := by
  unfold State.checkBitidx; split <;> simp [*]

theorem checkReady_eq_none_iff (l : List (Bool × Nat)) : checkReady l = none ↔ ∀ c ∈ l, c.1 = true := by
  induction l with
  | nil => simp [checkReady]
  | cons c l ih =>
    obtain ⟨b, n⟩ := c
    cases b <;> simp [checkReady, ih]

/-- No check records the code 0 of "no fault". -/
theorem State.checks_code_ne_noFault (s : State) (len : Nat) (l : List (Bool × Nat)) (r : InvertResult)
    (u : UnpadResult) (f : FaultRecord)
    (h : some f ∈ [s.checkKeylen, s.checkRounds, s.checkRidx, s.checkBlockLen, s.checkInputLen, s.checkPadLen,
      s.checkFormat, s.checkBitidx len, checkReady l, r.check, u.check]) : f.code ≠ FaultCode.noFault := by
  have hl : ∀ l : List (Bool × Nat), ∀ f, checkReady l = some f → f.code ≠ FaultCode.noFault := by
    intro l
    induction l with
    | nil => simp [checkReady]
    | cons c l ih =>
      obtain ⟨b, n⟩ := c
      cases b
      · intro f hf; simp [checkReady] at hf; subst hf; simp
      · intro f hf; exact ih f (by simpa [checkReady] using hf)
  simp only [List.mem_cons, List.not_mem_nil, or_false] at h
  rcases h with h | h | h | h | h | h | h | h | h | h | h
  · unfold State.checkKeylen at h; split at h <;> cases h; simp
  · unfold State.checkRounds at h; split at h <;> cases h; simp
  · unfold State.checkRidx at h; split at h <;> cases h; simp
  · unfold State.checkBlockLen at h; split at h <;> cases h; simp
  · unfold State.checkInputLen at h; split at h <;> cases h; simp
  · unfold State.checkPadLen at h; split at h <;> cases h; simp
  · unfold State.checkFormat at h; split at h <;> cases h; simp
  · unfold State.checkBitidx at h; split at h <;> cases h; simp
  · exact hl l f h.symm
  · cases r <;> simp [InvertResult.check] at h; subst h; simp
  · cases u <;> simp [UnpadResult.check] at h; subst h; simp

end Sys2Proof.Machine
end

