-- ==== Sys2Proof/Laws/Memory.lean ====
section
/-! SUPPORT. The laws of memories (Machine/Ops.lean): read after write, the canonical form and the bounds every
operation keeps, and what a written byte string reads back as. -/

namespace Sys2Proof.Machine

@[simp] theorem Memory.read_nil (i : Nat) : Memory.read [] i = 0#8 := rfl

@[simp] theorem Memory.slice_length (m : Memory) (i n : Nat) : (m.slice i n).length = n := by
  simp [Memory.slice]

theorem Memory.slice_getD (m : Memory) (i n j : Nat) (h : j < n) : (m.slice i n).getD j 0#8 = m.read (i + j) := by
  simp [Memory.slice, List.getD, h]

/-- Two slices are equal exactly when their elements are. -/
theorem Memory.slice_eq_iff (m m' : Memory) (i i' n : Nat) :
    m.slice i n = m'.slice i' n ↔ ∀ j < n, m.read (i + j) = m'.read (i' + j) := by
  simp [Memory.slice]

theorem Memory.wfFrom_mono {lo lo' : Nat} {m : Memory} (h : Memory.wfFrom lo m = true) (hl : lo' ≤ lo) :
    Memory.wfFrom lo' m = true := by
  cases m with
  | nil => rfl
  | cons c rest =>
    simp only [Memory.wfFrom, Bool.and_eq_true, decide_eq_true_eq] at h ⊢
    exact ⟨⟨by omega, h.1.2⟩, h.2⟩

/-- Below its first index a canonical memory reads as an unlisted element. -/
theorem Memory.read_below {lo i : Nat} {m : Memory} (h : Memory.wfFrom lo m = true) (hi : i < lo) :
    m.read i = 0#8 := by
  induction m generalizing lo with
  | nil => rfl
  | cons c rest ih =>
    obtain ⟨k, v⟩ := c
    simp only [Memory.wfFrom, Bool.and_eq_true, decide_eq_true_eq] at h
    have hk : k ≠ i := by omega
    simp only [Memory.read, if_neg hk]
    exact ih h.2 (by omega)

/-- A write is read back, and every other element reads as before. -/
theorem Memory.read_write_from {lo : Nat} {m : Memory} (h : Memory.wfFrom lo m = true) (i j : Nat) (v : Byte) :
    (m.write i v).read j = if j = i then v else m.read j := by
  induction m generalizing lo with
  | nil =>
    by_cases hv : v = Memory.unlisted
    · simp [Memory.write, hv, Memory.read, Memory.unlisted]
    · by_cases hj : j = i
      · simp [Memory.write, hv, Memory.read, hj]
      · simp [Memory.write, hv, Memory.read, hj, Ne.symm hj]
  | cons c rest ih =>
    obtain ⟨k, w⟩ := c
    have h' := h
    simp only [Memory.wfFrom, Bool.and_eq_true, decide_eq_true_eq] at h
    simp only [Memory.write]
    split
    · rename_i hik
      split
      · rename_i hv
        by_cases hj : j = i
        · subst hj
          rw [if_pos rfl, hv]
          exact Memory.read_below (lo := k) (by simp [Memory.wfFrom, h.1.2, h.2]) hik
        · rw [if_neg hj]
      · by_cases hj : j = i
        · simp [Memory.read, hj]
        · simp [Memory.read, hj, Ne.symm hj]
    · split
      · rename_i hik
        subst hik
        split
        · rename_i hv
          by_cases hj : j = i
          · subst hj
            rw [if_pos rfl, hv]
            exact Memory.read_below h.2 (by omega)
          · simp [Memory.read, hj, Ne.symm hj]
        · by_cases hj : j = i
          · simp [Memory.read, hj]
          · simp [Memory.read, hj, Ne.symm hj]
      · rename_i h1 h2
        by_cases hkj : k = j
        · subst hkj
          simp [Memory.read, Ne.symm h2]
        · simp only [Memory.read, if_neg hkj]
          exact ih h.2

theorem Memory.read_write {m : Memory} (h : m.wf = true) (i j : Nat) (v : Byte) :
    (m.write i v).read j = if j = i then v else m.read j :=
  Memory.read_write_from h i j v

theorem Memory.wfFrom_write {lo : Nat} {m : Memory} (h : Memory.wfFrom lo m = true) (i : Nat) (v : Byte) :
    Memory.wfFrom (min lo i) (m.write i v) = true := by
  induction m generalizing lo with
  | nil =>
    by_cases hv : v = Memory.unlisted
    · simp [Memory.write, hv, Memory.wfFrom]
    · simp [Memory.write, hv, Memory.wfFrom]
  | cons c rest ih =>
    obtain ⟨k, w⟩ := c
    have h' := h
    simp only [Memory.wfFrom, Bool.and_eq_true, decide_eq_true_eq] at h
    simp only [Memory.write]
    split
    · rename_i hik
      split
      · exact Memory.wfFrom_mono h' (by omega)
      · rename_i hv
        simp only [Memory.wfFrom, Bool.and_eq_true, decide_eq_true_eq]
        exact ⟨⟨by omega, by simpa using hv⟩, ⟨by omega, h.1.2⟩, h.2⟩
    · split
      · rename_i hik
        subst hik
        split
        · exact Memory.wfFrom_mono h.2 (by omega)
        · rename_i hv
          simp only [Memory.wfFrom, Bool.and_eq_true, decide_eq_true_eq]
          exact ⟨⟨by omega, by simpa using hv⟩, h.2⟩
      · simp only [Memory.wfFrom, Bool.and_eq_true, decide_eq_true_eq]
        refine ⟨⟨by omega, h.1.2⟩, ?_⟩
        have := ih h.2
        rwa [show min (k + 1) i = k + 1 by omega] at this

/-- A write keeps the canonical form. -/
theorem Memory.wf_write {m : Memory} (h : m.wf = true) (i : Nat) (v : Byte) : (m.write i v).wf = true :=
  Memory.wfFrom_mono (Memory.wfFrom_write h i v) (Nat.zero_le _)

/-- A write below the bound keeps the bound. -/
theorem Memory.within_write {n : Nat} {m : Memory} (h : m.within n = true) {i : Nat} (hi : i < n) (v : Byte) :
    (m.write i v).within n = true := by
  induction m with
  | nil =>
    by_cases hv : v = Memory.unlisted
    · simp [Memory.write, hv, Memory.within]
    · simp [Memory.write, hv, Memory.within, hi]
  | cons c rest ih =>
    obtain ⟨k, w⟩ := c
    have hc : k < n ∧ Memory.within n rest = true := by
      simpa only [Memory.within, List.all_cons, Bool.and_eq_true, decide_eq_true_eq] using h
    have hcons : ∀ (a : Nat) (b : Byte) (l : Memory), a < n → l.within n = true →
        Memory.within n ((a, b) :: l) = true := by
      intro a b l ha hl
      simpa only [Memory.within, List.all_cons, Bool.and_eq_true, decide_eq_true_eq] using And.intro ha hl
    simp only [Memory.write]
    split
    · split
      · exact h
      · exact hcons i v _ hi h
    · split
      · split
        · exact hc.2
        · exact hcons i v _ hi hc.2
      · exact hcons k w _ hc.1 (ih hc.2)

theorem Memory.wf_writeBytes {m : Memory} (h : m.wf = true) (i : Nat) (bs : Bytes) :
    (m.writeBytes i bs).wf = true := by
  induction bs generalizing m i with
  | nil => exact h
  | cons b bs ih => exact ih (Memory.wf_write h i b) (i + 1)

theorem Memory.within_writeBytes {n : Nat} {m : Memory} (h : m.within n = true) {i : Nat} {bs : Bytes}
    (hi : i + bs.length ≤ n) : (m.writeBytes i bs).within n = true := by
  induction bs generalizing m i with
  | nil => exact h
  | cons b bs ih =>
    simp only [List.length_cons] at hi
    exact ih (Memory.within_write h (by omega) b) (by omega)

/-- What a written byte string reads back as: its bytes where it was written, the old elements elsewhere. -/
theorem Memory.read_writeBytes {m : Memory} (h : m.wf = true) (i j : Nat) (bs : Bytes) :
    (m.writeBytes i bs).read j = if i ≤ j ∧ j < i + bs.length then bs.getD (j - i) 0#8 else m.read j := by
  induction bs generalizing m i with
  | nil => simp [Memory.writeBytes]
  | cons b bs ih =>
    simp only [Memory.writeBytes, ih (Memory.wf_write h i b), Memory.read_write h, List.length_cons]
    by_cases hj : j = i
    · subst hj; simp
    · rw [if_neg hj]
      by_cases hr : i + 1 ≤ j ∧ j < i + 1 + bs.length
      · rw [if_pos hr, if_pos (by omega)]
        rw [show j - i = (j - (i + 1)) + 1 by omega, List.getD_cons_succ]
      · rw [if_neg hr, if_neg (by omega)]

theorem Memory.read_writeBytes_outside {m : Memory} (h : m.wf = true) {i j : Nat} {bs : Bytes}
    (hj : j < i ∨ i + bs.length ≤ j) : (m.writeBytes i bs).read j = m.read j := by
  rw [Memory.read_writeBytes h, if_neg (by omega)]

/-- A written byte string is the slice at the place it was written to. -/
theorem Memory.slice_writeBytes {m : Memory} (h : m.wf = true) (i : Nat) (bs : Bytes) :
    (m.writeBytes i bs).slice i bs.length = bs := by
  apply List.ext_getElem
  · simp
  · intro n h1 h2
    simp only [Memory.slice, List.getElem_map, List.getElem_range, Memory.read_writeBytes h]
    rw [if_pos (by omega)]
    simp [List.getD, h2]

/-- A slice that a write does not meet is as before. -/
theorem Memory.slice_writeBytes_outside {m : Memory} (h : m.wf = true) {i j n : Nat} {bs : Bytes}
    (hj : j + n ≤ i ∨ i + bs.length ≤ j) : (m.writeBytes i bs).slice j n = m.slice j n := by
  rw [Memory.slice_eq_iff]
  intro k hk
  exact Memory.read_writeBytes_outside h (by omega)

/-- In canonical form equal elements make equal memories. -/
theorem Memory.ext_of_wfFrom {lo : Nat} {m m' : Memory} (h : Memory.wfFrom lo m = true)
    (h' : Memory.wfFrom lo m' = true) (he : ∀ i, m.read i = m'.read i) : m = m' := by
  induction m generalizing lo m' with
  | nil =>
    cases m' with
    | nil => rfl
    | cons c rest =>
      obtain ⟨k, v⟩ := c
      have := he k
      simp only [Memory.wfFrom, Bool.and_eq_true, decide_eq_true_eq, bne_iff_ne, ne_eq] at h'
      simp only [Memory.read, if_true] at this
      exact absurd this.symm h'.1.2
  | cons c rest ih =>
    obtain ⟨k, v⟩ := c
    simp only [Memory.wfFrom, Bool.and_eq_true, decide_eq_true_eq, bne_iff_ne, ne_eq] at h
    cases m' with
    | nil =>
      have := he k
      simp only [Memory.read, if_true] at this
      exact absurd this h.1.2
    | cons c' rest' =>
      obtain ⟨k', v'⟩ := c'
      simp only [Memory.wfFrom, Bool.and_eq_true, decide_eq_true_eq, bne_iff_ne, ne_eq] at h'
      have hk : k = k' := by
        rcases Nat.lt_trichotomy k k' with hlt | heq | hgt
        · have := he k
          simp only [Memory.read, if_true, if_neg (show k' ≠ k by omega)] at this
          rw [Memory.read_below h'.2 (by omega)] at this
          exact absurd this h.1.2
        · exact heq
        · have := he k'
          simp only [Memory.read, if_true, if_neg (show k ≠ k' by omega)] at this
          rw [Memory.read_below h.2 (by omega)] at this
          exact absurd this.symm h'.1.2
      subst hk
      have hv : v = v' := by simpa [Memory.read] using he k
      subst hv
      have hr : rest = rest' := by
        refine ih h.2 h'.2 ?_
        intro i
        by_cases hi : k = i
        · subst hi
          rw [Memory.read_below h.2 (by omega), Memory.read_below h'.2 (by omega)]
        · simpa [Memory.read, hi] using he i
      rw [hr]

theorem Memory.ext_of_wf {m m' : Memory} (h : m.wf = true) (h' : m'.wf = true)
    (he : ∀ i, m.read i = m'.read i) : m = m' :=
  Memory.ext_of_wfFrom h h' he

end Sys2Proof.Machine
end

