-- ==== Sys2Proof/Laws/Effects.lean ====
section
/-! SUPPORT. What the shared effect operations leave in the memories they write (Machine/Operands.lean, Round.lean,
Block.lean, Avalanche.lean): one lemma each, to cite instead of unfolding them. -/

namespace Sys2Proof.Machine

/-- The memories of a good state are in canonical form, by name. -/
theorem State.MemForm.wf {s : State} (h : s.MemForm) (m : MemId) : (s.memOf m).wf = true :=
  (h m (by cases m <;> decide)).1

/-- The memories of a good state hold nothing beyond their elements, by name. -/
theorem State.MemForm.within {s : State} (h : s.MemForm) (m : MemId) : (s.memOf m).within (m.size s.cfg) = true :=
  (h m (by cases m <;> decide)).2

/-- A string written from element 0 on reads back, and nothing beyond it changes. -/
theorem Memory.read_writeBytes_zero {m : Memory} (h : m.wf = true) (bs : Bytes) (j : Nat) :
    (m.writeBytes 0 bs).read j = if j < bs.length then bs.getD j 0#8 else m.read j := by
  rw [Memory.read_writeBytes h]; simp

/-- An output reads back whole (10_state R35). -/
theorem State.putOutput_slice {s : State} (h : s.obuf.wf = true) (bs : Bytes) :
    (s.putOutput bs).obuf.slice 0 bs.length = bs :=
  Memory.slice_writeBytes h 0 bs

/-- The output byte string is the output, when OLEN can hold its length. -/
theorem State.putOutput_outputBytes {s : State} (h : s.obuf.wf = true) {bs : Bytes} (hl : bs.length < 2 ^ 32) :
    (s.putOutput bs).outputBytes = bs := by
  unfold State.outputBytes
  rw [State.putOutput_olen, BitVec.toNat_ofNat, Nat.mod_eq_of_lt hl]
  exact State.putOutput_slice h bs

/-- Every element of OBUF after an output. -/
theorem State.putOutput_obuf_read {s : State} (h : s.obuf.wf = true) (bs : Bytes) (j : Nat) :
    (s.putOutput bs).obuf.read j = if j < bs.length then bs.getD j 0#8 else s.obuf.read j :=
  Memory.read_writeBytes_zero h bs j

/-- A table written to a memory reads back as a table, when its entries fit in a byte. -/
theorem Memory.table_writeBytes {m : Memory} (h : m.wf = true) {t : List Nat} (ht : ∀ v ∈ t, v < 256) :
    (m.writeBytes 0 (tableBytes t)).table t.length = t := by
  unfold Memory.table
  have hs := Memory.slice_writeBytes h 0 (tableBytes t)
  rw [tableBytes_length] at hs
  rw [hs, tableBytes, List.map_map]
  conv_rhs => rw [← List.map_id t]
  apply List.map_congr_left
  intro v hv
  simp [Nat.mod_eq_of_lt (ht v hv)]

/-- Row `r` of rows joined. -/
theorem flatten_drop_take (l : List Bytes) (h : ∀ b ∈ l, b.length = 8) (r : Nat) (hr : r < l.length) :
    (l.flatten.drop (8 * r)).take 8 = l[r] := by
  induction l generalizing r with
  | nil => simp at hr
  | cons b l ih =>
    have hb := h b (by simp)
    cases r with
    | zero =>
      simp only [Nat.mul_zero, List.drop_zero, List.flatten_cons, List.getElem_cons_zero]
      rw [← hb, List.take_left]
    | succ r =>
      rw [List.flatten_cons, show 8 * (r + 1) = b.length + 8 * r by omega, List.drop_append,
        List.drop_of_length_le (by omega), List.nil_append, Nat.add_sub_cancel_left]
      simpa using ih (fun c hc => h c (List.mem_cons_of_mem _ hc)) r (by simpa using hr)

/-- A slice of a memory is the part of a longer slice. -/
theorem Memory.slice_drop_take (m : Memory) (i n j k : Nat) (h : j + k ≤ n) :
    ((m.slice i n).drop j).take k = m.slice (i + j) k := by
  apply List.ext_getElem
  · simp; omega
  · intro a h1 h2
    simp [Memory.slice, Nat.add_assoc]

/-- Rows of eight bytes written to a schedule memory read back as rows (10_state R34). -/
theorem Memory.rows_writeBytes {m : Memory} (h : m.wf = true) {l : List Bytes} (hl : ∀ b ∈ l, b.length = 8) :
    (m.writeBytes 0 l.flatten).rows l.length = l := by
  apply List.ext_getElem
  · simp
  · intro r h1 h2
    have hlen := flatten_length_of_rows l hl
    have hs := Memory.slice_writeBytes h 0 l.flatten
    rw [hlen] at hs
    have := Memory.slice_drop_take (m.writeBytes 0 l.flatten) 0 (8 * l.length) (8 * r) 8 (by omega)
    rw [hs, flatten_drop_take l hl r h2, Nat.zero_add] at this
    simp [Memory.rows, ← this]

/-- A trace record reads back (43_round R213, R214). -/
theorem State.putTrace_slice {s : State} (h : s.trace.wf = true) (r : Nat) (t : RoundTrace) :
    (s.putTrace r t).trace.slice (48 * r) t.bytes.length = t.bytes :=
  Memory.slice_writeBytes h (48 * r) t.bytes

/-- A trace record leaves the elements outside it alone. -/
theorem State.putTrace_outside {s : State} (h : s.trace.wf = true) (r : Nat) (t : RoundTrace) {j : Nat}
    (hj : j < 48 * r ∨ 48 * r + t.bytes.length ≤ j) : (s.putTrace r t).trace.read j = s.trace.read j :=
  Memory.read_writeBytes_outside h hj

/-- A traced or untraced command's record changes TRACE and nothing else. -/
theorem State.traceIf_eq (s : State) (t : Bool) (r : Nat) (record : RoundTrace) :
    s.traceIf t r record = { s with trace := (s.traceIf t r record).trace } := by
  cases t <;> rfl

/-- The trace records of the forward rounds change TRACE and nothing else. -/
theorem State.traceFwd_eq (p : RoundParams) (n r : Nat) (b : Bytes) (s : State) :
    State.traceFwd p n r b s = { s with trace := (State.traceFwd p n r b s).trace } := by
  induction n generalizing r b s with
  | zero => rfl
  | succ n ih => rw [State.traceFwd, ih]; rfl

/-- The trace records of the inverse rounds change TRACE and nothing else. -/
theorem State.traceInv_eq (p : RoundParams) (n : Nat) (b : Bytes) (s : State) :
    State.traceInv p n b s = { s with trace := (State.traceInv p n b s).trace } := by
  induction n generalizing b s with
  | zero => rfl
  | succ n ih => rw [State.traceInv, ih]; rfl

/-- The avalanche counts read back (46_avalanche R295). -/
theorem State.putReport_cnt_read {s : State} (h : s.cnt.wf = true) (a : AvalancheReport) (j : Nat) :
    (s.putReport a).cnt.read j =
      if j < a.cnt.length then BitVec.ofNat 8 (a.cnt.getD j 0) else s.cnt.read j := by
  have : (s.putReport a).cnt = s.cnt.writeBytes 0 (a.cnt.map (BitVec.ofNat 8)) := rfl
  rw [this, Memory.read_writeBytes_zero h]
  by_cases hj : j < a.cnt.length <;> simp [List.getD, hj]

end Sys2Proof.Machine
end

