-- ==== Sys2Proof/Laws/PerInstr.lean ====
section
/-! SUPPORT. Statements about every command as syntax, one lemma per constructor of Instr (LAWS.json). -/

namespace Sys2Proof.Laws

/-- The word the encoder writes is legal, and its OP and T fields are the command's (spec/30_encoding.md R70 to R74). -/
def EncodeLegal.Statement (i : Instr) : Prop :=
  i.wellFormed = true ∧ legalWord (encode i) = true ∧ opField (encode i) = i.opcode ∧
    traceField (encode i) = i.traceBit

theorem EncodeLegal.sysNop : EncodeLegal.Statement .sysNop := by unfold EncodeLegal.Statement; decide
theorem EncodeLegal.sysRst : EncodeLegal.Statement .sysRst := by unfold EncodeLegal.Statement; decide
theorem EncodeLegal.sboxGen : EncodeLegal.Statement .sboxGen := by unfold EncodeLegal.Statement; decide
theorem EncodeLegal.sboxInv : EncodeLegal.Statement .sboxInv := by unfold EncodeLegal.Statement; decide
theorem EncodeLegal.sboxFwd : EncodeLegal.Statement .sboxFwd := by unfold EncodeLegal.Statement; decide
theorem EncodeLegal.sboxBwd : EncodeLegal.Statement .sboxBwd := by unfold EncodeLegal.Statement; decide
theorem EncodeLegal.pboxGen : EncodeLegal.Statement .pboxGen := by unfold EncodeLegal.Statement; decide
theorem EncodeLegal.pboxInv : EncodeLegal.Statement .pboxInv := by unfold EncodeLegal.Statement; decide
theorem EncodeLegal.pboxFwd : EncodeLegal.Statement .pboxFwd := by unfold EncodeLegal.Statement; decide
theorem EncodeLegal.pboxBwd : EncodeLegal.Statement .pboxBwd := by unfold EncodeLegal.Statement; decide
theorem EncodeLegal.ksNorm : EncodeLegal.Statement .ksNorm := by unfold EncodeLegal.Statement; decide
theorem EncodeLegal.ksRc16 : EncodeLegal.Statement .ksRc16 := by unfold EncodeLegal.Statement; decide
theorem EncodeLegal.ksSubk : EncodeLegal.Statement .ksSubk := by unfold EncodeLegal.Statement; decide
theorem EncodeLegal.ksConst : EncodeLegal.Statement .ksConst := by unfold EncodeLegal.Statement; decide
theorem EncodeLegal.rndFwd (t : Bool) : EncodeLegal.Statement (.rndFwd t) := by unfold EncodeLegal.Statement; revert t; decide
theorem EncodeLegal.rndInv (t : Bool) : EncodeLegal.Statement (.rndInv t) := by unfold EncodeLegal.Statement; revert t; decide
theorem EncodeLegal.blkEnc (t : Bool) : EncodeLegal.Statement (.blkEnc t) := by unfold EncodeLegal.Statement; revert t; decide
theorem EncodeLegal.blkDec (t : Bool) : EncodeLegal.Statement (.blkDec t) := by unfold EncodeLegal.Statement; revert t; decide
theorem EncodeLegal.cbcEnc : EncodeLegal.Statement .cbcEnc := by unfold EncodeLegal.Statement; decide
theorem EncodeLegal.cbcDec : EncodeLegal.Statement .cbcDec := by unfold EncodeLegal.Statement; decide
theorem EncodeLegal.avalPt : EncodeLegal.Statement .avalPt := by unfold EncodeLegal.Statement; decide
theorem EncodeLegal.avalKey : EncodeLegal.Statement .avalKey := by unfold EncodeLegal.Statement; decide

end Sys2Proof.Laws
end

