-- ==== Sys2Proof/Laws/Port.lean ====
section
/-! SUPPORT. What the host port and a step can do (Machine/Port.lean, Step.lean): one lemma each, and the lookup of a
command word written to CMD. -/

namespace Sys2Proof.Machine

/-- CMD is at BASE, whatever the parameters are. -/
theorem resolve_cmd (c : Config) : resolve c 4 (c.base + Reg.offset .cmd) = .ok (.reg .cmd) := by
  simp [resolve, windowSize, locate, Reg.all, Reg.offset]

/-- Everything a host read can do (20_memory R52, R55). -/
theorem State.hostRead_cases (s : State) (width addr : Nat) :
    (∃ e, s.hostRead width addr = .busError e) ∨
    ∃ l, resolve s.cfg width addr = .ok l ∧ s.portFree l = true ∧
      s.hostRead width addr = .next { s with port := { s.port with response := some (s.readLocation l) } } := by
  unfold State.hostRead
  split
  · exact .inl ⟨_, rfl⟩
  · rename_i l hl
    split
    · rename_i hf; exact .inr ⟨l, hl, hf, rfl⟩
    · exact .inl ⟨_, rfl⟩

/-- Everything a host write can do (20_memory R53, R55). -/
theorem State.hostWrite_cases (s : State) (width addr : Nat) (v : Word) :
    (∃ e, s.hostWrite width addr v = .busError e) ∨
    ∃ l, resolve s.cfg width addr = .ok l ∧ s.status.busy = false ∧ l.writable = true ∧
      ((l = .reg .cmd ∧ s.hostWrite width addr v = .command v s) ∨
        (l ≠ .reg .cmd ∧ s.hostWrite width addr v = .next (s.writeLocation l v))) := by
  unfold State.hostWrite
  split
  · exact .inl ⟨_, rfl⟩
  · rename_i l hl
    split
    · exact .inl ⟨_, rfl⟩
    · rename_i hb
      split
      · rename_i hw
        refine .inr ⟨l, hl, by simpa using hb, hw, ?_⟩
        split
        · rename_i hc; exact .inl ⟨hc, rfl⟩
        · rename_i hc; exact .inr ⟨hc, rfl⟩
      · exact .inl ⟨_, rfl⟩

/-- Every command answers a next state (60_exceptions R320). -/
theorem exec_next (i : Instr) (s : State) : ∃ t, exec i s = .next t := by
  have hr : ∀ (checks : List (Option FaultRecord)) (e : State), ∃ t, runCommand s checks e = .next t := by
    intro checks e
    rcases runCommand_cases s checks e with ⟨_, h⟩ | ⟨_, f, _, h⟩ | ⟨_, _, h⟩ <;> exact ⟨_, h⟩
  cases i
  case sysNop => exact hr [] s
  case sysRst => exact ⟨_, rfl⟩
  case ksRc16 => exact hr [] _
  all_goals exact hr _ _

/-- Every command word answers a next state. -/
theorem issue_next (w : Word) (s : State) : ∃ t, issue w s = .next t := by
  unfold issue
  split
  · exact exec_next _ s
  · exact ⟨_, rfl⟩

/-- Everything a step that answers a state can have done: nothing was pending; a read; a hardware reset; a write to a
register or an element; a command word. -/
theorem step_inv {s t : State} (h : step s = .next t) :
    (s.port.pending = [] ∧ t = s) ∨
    (∃ width addr rest l, s.port.pending = .read width addr :: rest ∧ resolve s.cfg width addr = .ok l ∧
      t = { s with port := { pending := rest, response := some (s.readLocation l) } }) ∨
    (∃ rest, s.port.pending = .reset :: rest ∧ t = (s.accept rest).toReset) ∨
    (∃ width addr v rest l, s.port.pending = .write width addr v :: rest ∧ resolve s.cfg width addr = .ok l ∧
      l.writable = true ∧ l ≠ .reg .cmd ∧ t = (s.accept rest).writeLocation l v) ∨
    ∃ width addr w rest, s.port.pending = .write width addr w :: rest ∧
      resolve s.cfg width addr = .ok (.reg .cmd) ∧ issue w (s.accept rest) = .next t := by
  unfold step State.nextAction at h
  cases hp : s.port.pending with
  | nil => rw [hp] at h; simp at h; exact .inl ⟨rfl, h.symm⟩
  | cons e rest =>
    rw [hp] at h
    cases e with
    | reset =>
      simp only [State.portEvent] at h
      cases h
      exact .inr (.inr (.inl ⟨rest, rfl, rfl⟩))
    | read width addr =>
      simp only [State.portEvent] at h
      rcases State.hostRead_cases (s.accept rest) width addr with ⟨e, he⟩ | ⟨l, hl, _, he⟩
      · rw [he] at h; cases h
      · rw [he] at h; cases h
        exact .inr (.inl ⟨width, addr, rest, l, rfl, hl, rfl⟩)
    | write width addr v =>
      simp only [State.portEvent] at h
      rcases State.hostWrite_cases (s.accept rest) width addr v with ⟨e, he⟩ | ⟨l, hl, _, hw, hc⟩
      · rw [he] at h; cases h
      · rcases hc with ⟨rfl, he⟩ | ⟨hne, he⟩
        · rw [he] at h
          exact .inr (.inr (.inr (.inr ⟨width, addr, v, rest, rfl, hl, h⟩)))
        · rw [he] at h; cases h
          exact .inr (.inr (.inr (.inl ⟨width, addr, v, rest, l, rfl, hl, hw, hne, rfl⟩)))

end Sys2Proof.Machine
end

