-- ==== Sys2Proof/Tests/Slice0.lean ====
section
/-! SUPPORT. The author's own tests: refusals of ill-formed words and parameter sets, the decoding of every command from a
word written out from its encoding, small steps against values of spec/, and for every obligation with hypotheses a state
and operands that meet them together. Expected values come from spec/: the file and section stand in each comment. -/

set_option Elab.async false

namespace Sys2Proof.Tests

open Sys2Proof Sys2Proof.Machine

/-! ## Well-formedness: each check refuses an ill-formed term -/

theorem test_reserved_bit_refused : reservedClear 0x00000200#32 = false ∧ legalWord 0x00000200#32 = false := by decide
theorem test_unknown_opcode_refused : opcodeKnown 0x02#8 = false ∧ legalWord 0x00000002#32 = false := by decide
theorem test_trace_bit_refused : traceAllowed 0x01#8 true = false ∧ legalWord 0x00000101#32 = false := by decide
theorem test_rounds_max_refused : ({ Config.p0 with roundsMax := 0 }).valid = false ∧
    ({ Config.p0 with roundsMax := 65 }).roundsMaxOk = false := by decide
theorem test_key_cap_refused : ({ Config.p0 with keyCap := 1025 }).valid = false := by decide
theorem test_buf_cap_refused : ({ Config.p0 with bufCap := 12 }).valid = false ∧
    ({ Config.p0 with bufCap := 0 }).bufCapOk = false := by decide
theorem test_base_refused : ({ Config.p0 with base := 2 }).valid = false := by decide
theorem test_mix_refused : ({ Config.p0 with mixS := 0x3C3C3C3C#32 }).valid = false := by decide
theorem test_rc_mul_refused : ({ Config.p0 with rcMul := 2#32 }).valid = false := by decide
theorem test_golden_refused : ({ Config.p0 with golden := 0#32 }).valid = false := by decide
theorem test_shift_refused : ({ Config.p0 with xsB := 32 }).valid = false := by decide

/-! ## Decoding: every word of 30_encoding R72, and the refusals of R74 by name -/

theorem test_decode_sysNop : decode 0x00000000#32 = .ok .sysNop := by decide
theorem test_decode_sysRst : decode 0x00000001#32 = .ok .sysRst := by decide
theorem test_decode_sboxGen : decode 0x00000010#32 = .ok .sboxGen := by decide
theorem test_decode_sboxInv : decode 0x00000011#32 = .ok .sboxInv := by decide
theorem test_decode_sboxFwd : decode 0x00000012#32 = .ok .sboxFwd := by decide
theorem test_decode_sboxBwd : decode 0x00000013#32 = .ok .sboxBwd := by decide
theorem test_decode_pboxGen : decode 0x00000020#32 = .ok .pboxGen := by decide
theorem test_decode_pboxInv : decode 0x00000021#32 = .ok .pboxInv := by decide
theorem test_decode_pboxFwd : decode 0x00000022#32 = .ok .pboxFwd := by decide
theorem test_decode_pboxBwd : decode 0x00000023#32 = .ok .pboxBwd := by decide
theorem test_decode_ksNorm : decode 0x00000030#32 = .ok .ksNorm := by decide
theorem test_decode_ksRc16 : decode 0x00000031#32 = .ok .ksRc16 := by decide
theorem test_decode_ksSubk : decode 0x00000032#32 = .ok .ksSubk := by decide
theorem test_decode_ksConst : decode 0x00000033#32 = .ok .ksConst := by decide
theorem test_decode_rndFwd : decode 0x00000040#32 = .ok (.rndFwd false) ∧ decode 0x00000140#32 = .ok (.rndFwd true) := by decide
theorem test_decode_rndInv : decode 0x00000041#32 = .ok (.rndInv false) ∧ decode 0x00000141#32 = .ok (.rndInv true) := by decide
theorem test_decode_blkEnc : decode 0x00000050#32 = .ok (.blkEnc false) ∧ decode 0x00000150#32 = .ok (.blkEnc true) := by decide
theorem test_decode_blkDec : decode 0x00000051#32 = .ok (.blkDec false) ∧ decode 0x00000151#32 = .ok (.blkDec true) := by decide
theorem test_decode_cbcEnc : decode 0x00000060#32 = .ok .cbcEnc := by decide
theorem test_decode_cbcDec : decode 0x00000061#32 = .ok .cbcDec := by decide
theorem test_decode_avalPt : decode 0x00000070#32 = .ok .avalPt := by decide
theorem test_decode_avalKey : decode 0x00000071#32 = .ok .avalKey := by decide
theorem test_decode_refusals : decode 0x80000050#32 = .error .reservedBits ∧ decode 0x00000014#32 = .error .unknownOpcode ∧
    decode 0x00000160#32 = .error .traceNotAllowed := by decide
theorem test_decode_table_word : decodeTableWord 32 0x150 = some (.blkEnc true) ∧ decodeTableWord 32 0x2 = none := by
  decide

/-! ## Small states -/

/-- The state an outcome answers, the reset state where it answers none. -/
def after (o : Host.Outcome State Fault Refusal) : State :=
  match o with
  | .next t => t
  | .fault _ => State.reset
  | .refused _ => State.reset

/-- A command on a state. -/
def run (i : Instr) (s : State) : State := after (exec i s)

/-- A state holding the key "test1234", one round and an 8-byte input. -/
def keyed (input : Bytes) : State :=
  { State.reset with
    kmem := Memory.writeBytes [] 0 [0x74#8, 0x65#8, 0x73#8, 0x74#8, 0x31#8, 0x32#8, 0x33#8, 0x34#8]
    keylen := 8#32
    rounds := 1#32
    ibuf := Memory.writeBytes [] 0 input
    ilen := BitVec.ofNat 32 input.length }

/-- Eight zero bytes. -/
def zeros : Bytes := List.replicate 8 0#8

/-- The bytes 01 23 45 67 89 AB CD EF. -/
def counted : Bytes := [0x01#8, 0x23#8, 0x45#8, 0x67#8, 0x89#8, 0xAB#8, 0xCD#8, 0xEF#8]

/-- "test1234", one round, every table and schedule generated, all flags set, the input `counted`. -/
def warm : State := run (.blkEnc false) (keyed counted)

/-- A state whose SBOX and PBOX the host loaded. -/
def loaded (sbox pbox : List Nat) : State :=
  { State.reset with
    sbox := Memory.writeBytes [] 0 (tableBytes sbox)
    pbox := Memory.writeBytes [] 0 (tableBytes pbox) }

/-- The entries n−1 down to 0. -/
def reversal (n : Nat) : List Nat := (List.range n).reverse

/-! ## Small steps -/

/-- 47_system R310, example. -/
theorem test_nop_keeps_flags : (run .sysNop warm).status.word = 0xFE#32 := by decide +kernel
/-- 95_test_vectors 3, program C. -/
theorem test_nop_ignored_when_halted : run .sysNop (run (.blkEnc false) State.reset) = run (.blkEnc false) State.reset ∧
    (run (.blkEnc false) State.reset).status.word = 0x200#32 := by decide +kernel
/-- 95_test_vectors 3, program C. -/
theorem test_rst_leaves_the_halt : (run .sysRst (run (.blkEnc false) State.reset)).status.word = 0#32 := by decide +kernel
/-- 47_system R311. -/
theorem test_rst_clears_memory : (run .sysRst (keyed counted)).kmem = [] ∧ (run .sysRst (keyed counted)).ilen = 0#32 := by decide +kernel
/-- 95_test_vectors 2.1. -/
theorem test_sbox_gen_empty_key : (run .sboxGen State.reset).sboxTable = [0, 10, 4, 5, 7, 15, 12, 6, 13, 9, 2, 14, 11, 3, 1, 8] ∧
    (run .sboxGen State.reset).status.word = 6#32 := by decide +kernel
/-- 95_test_vectors 2.1. -/
theorem test_sbox_gen_keylen : (run .sboxGen { State.reset with keylen := 257#32 }).status.word = 0x300#32 ∧
    (run .sboxGen { State.reset with keylen := 257#32 }).finfo = 257#32 := by decide +kernel
/-- 95_test_vectors 3, program C. -/
theorem test_sbox_inv_reversal : (run .sboxInv (loaded (reversal 16) [])).isboxTable = reversal 16 ∧
    (run .sboxInv (loaded (reversal 16) [])).status.word = 0xE#32 := by decide +kernel
/-- 95_test_vectors 3, program C. -/
theorem test_sbox_inv_duplicate : (run .sboxInv (loaded (List.range 14 ++ [15, 15]) [])).finfo = 15#32 ∧
    (run .sboxInv (loaded (List.range 14 ++ [15, 15]) [])).status.word = 0x700#32 := by decide +kernel
/-- 95_test_vectors 3, program C. -/
theorem test_sbox_fwd : (run .sboxFwd { run .sboxInv (loaded (reversal 16) []) with
      ibuf := [(0, 0x01#8), (1, 0x23#8), (2, 0xEF#8)], ilen := 3#32 }).outputBytes = [0xFE#8, 0xDC#8, 0x10#8] := by decide +kernel
/-- 95_test_vectors 2.1. -/
theorem test_sbox_fwd_not_ready : (run .sboxFwd State.reset).status.word = 0x800#32 ∧ (run .sboxFwd State.reset).finfo = 2#32 := by decide +kernel
/-- 40_sbox R116, example. -/
theorem test_sbox_bwd : (run .sboxBwd { warm with ibuf := [(0, 0xBB#8), (1, 0xB0#8), (2, 0x43#8)], ilen := 3#32 }).outputBytes =
    [0x00#8, 0x01#8, 0x23#8] := by decide +kernel
/-- 95_test_vectors 2.1. -/
theorem test_sbox_bwd_not_ready : (run .sboxBwd State.reset).status.word = 0x800#32 ∧ (run .sboxBwd State.reset).finfo = 3#32 := by decide +kernel
/-- 95_test_vectors 2.2. -/
theorem test_pbox_gen_empty_key : (run .pboxGen State.reset).pboxTable.take 8 = [51, 15, 4, 14, 22, 16, 52, 0] ∧
    (run .pboxGen State.reset).status.word = 0x12#32 := by decide +kernel
/-- 95_test_vectors 2.2. -/
theorem test_pbox_inv_fault : (run .pboxInv State.reset).status.word = 0x700#32 ∧ (run .pboxInv State.reset).finfo = 1#32 := by decide +kernel
/-- 41_pbox R132 on the table p[i] = (i + 1) mod 64, by hand: inv[p[i]] = i. -/
theorem test_pbox_inv : (run .pboxInv (loaded [] ((List.range 63).map (· + 1) ++ [0]))).ipboxTable = [63] ++ List.range 63 := by decide +kernel
/-- 95_test_vectors 2.2. -/
theorem test_pbox_fwd : (run .pboxFwd warm).outputBytes = [0x77#8, 0x8A#8, 0xB5#8, 0x70#8, 0x8A#8, 0x15#8, 0xD3#8, 0xE2#8] := by decide +kernel
/-- 95_test_vectors 2.2. -/
theorem test_pbox_bwd : (run .pboxBwd { warm with ibuf := Memory.writeBytes [] 0 [0x77#8, 0x8A#8, 0xB5#8, 0x70#8, 0x8A#8, 0x15#8, 0xD3#8, 0xE2#8] }).outputBytes = counted := by decide +kernel
/-- 95_test_vectors 2.3. -/
theorem test_ks_norm : (run .ksNorm { State.reset with kmem := [(0, 0x61#8), (1, 0x62#8), (2, 0x63#8)], keylen := 3#32 }).nkey.slice 0 16 =
    [0x61#8, 0x62#8, 0x63#8, 0x61#8, 0x62#8, 0x63#8, 0x61#8, 0x62#8, 0x63#8, 0x61#8, 0x62#8, 0x63#8, 0x61#8, 0x62#8, 0x63#8, 0x61#8] := by decide +kernel
/-- 95_test_vectors 2.3. -/
theorem test_ks_rc16 : (run .ksRc16 { State.reset with ridx := 1#32 }).rc16.slice 0 16 =
    [0x7A#8, 0x73#8, 0x26#8, 0x98#8, 0xDC#8, 0x5A#8, 0xC9#8, 0x9E#8, 0x9D#8, 0x3B#8, 0x7F#8, 0x14#8, 0x40#8, 0x68#8, 0xD6#8, 0x6F#8] := by decide +kernel
/-- 95_test_vectors 2.3. -/
theorem test_ks_rc16_zero_seed : (run .ksRc16 { State.reset with ridx := 0x243F6A88#32 }).rc16 = [] := by decide +kernel
/-- 95_test_vectors 2.3 (empty key). -/
theorem test_ks_subk : (run .ksSubk (run .sboxGen { State.reset with rounds := 2#32 })).rk.slice 0 24 =
    [0xDC#8, 0x5A#8, 0x50#8, 0x66#8, 0xAD#8, 0xCF#8, 0x3F#8, 0x67#8, 0xC9#8, 0x3C#8, 0xCF#8, 0xB8#8, 0x65#8, 0x24#8, 0xDF#8, 0xA0#8, 0x00#8, 0x00#8, 0x00#8, 0x00#8, 0x00#8, 0x00#8, 0x00#8, 0x00#8] := by decide +kernel
/-- 95_test_vectors 2.3. -/
theorem test_ks_subk_not_ready : (run .ksSubk { State.reset with rounds := 2#32 }).status.word = 0x800#32 ∧
    (run .ksSubk { State.reset with rounds := 2#32 }).finfo = 2#32 := by decide +kernel
/-- 95_test_vectors 2.3 (empty key). -/
theorem test_ks_const : (run .ksConst { State.reset with rounds := 2#32 }).rcon.slice 0 16 =
    [0x6E#8, 0x1F#8, 0x7B#8, 0x0F#8, 0xBE#8, 0x0F#8, 0x66#8, 0xFC#8, 0x59#8, 0x34#8, 0x67#8, 0x63#8, 0x3A#8, 0x36#8, 0x0E#8, 0x31#8] ∧
    (run .ksConst { State.reset with rounds := 2#32 }).mask.slice 0 3 = [0x37#8, 0xCD#8, 0#8] := by decide +kernel
/-- 95_test_vectors 2.3. -/
theorem test_ks_const_rounds : (run .ksConst { State.reset with rounds := 17#32 }).finfo = 17#32 := by decide +kernel
/-- 95_test_vectors 2.4. -/
theorem test_rnd_fwd : (run (.rndFwd false) warm).outputBytes = [0xAA#8, 0x0A#8, 0xC4#8, 0x57#8, 0xF0#8, 0x4E#8, 0xF9#8, 0x46#8] := by decide +kernel
/-- 95_test_vectors 2.4: the snapshots after Offset and NibbleShuffle. -/
theorem test_rnd_fwd_trace : (run (.rndFwd true) warm).trace.slice 8 16 =
    [0xB0#8, 0x43#8, 0x98#8, 0xC7#8, 0x2E#8, 0x6F#8, 0x51#8, 0xDA#8, 0xB0#8, 0x34#8, 0x89#8, 0xC7#8, 0x2E#8, 0x6F#8, 0x51#8, 0xAD#8] := by decide +kernel
/-- 95_test_vectors 2.4. -/
theorem test_rnd_inv : (run (.rndInv false) { warm with ibuf := warm.obuf }).outputBytes = counted := by decide +kernel
/-- 95_test_vectors 2.4: the snapshots after AddConst and inverse Transpose. -/
theorem test_rnd_inv_trace : (run (.rndInv true) { warm with ibuf := warm.obuf }).trace.slice 0 16 =
    [0x52#8, 0x46#8, 0x3E#8, 0x41#8, 0x25#8, 0x3A#8, 0x27#8, 0x9D#8, 0x4F#8, 0x90#8, 0xB6#8, 0x5E#8, 0xA0#8, 0x5E#8, 0x01#8, 0x35#8] := by decide +kernel
/-- 95_test_vectors 2.5. -/
theorem test_blk_enc : (run (.blkEnc false) (keyed zeros)).outputBytes = [0x21#8, 0x46#8, 0x8E#8, 0x71#8, 0x44#8, 0x7B#8, 0x5E#8, 0xF8#8] ∧
    (run (.blkEnc false) (keyed zeros)).status.word = 0xFE#32 := by decide +kernel
/-- 95_test_vectors 3, program F. -/
theorem test_blk_enc_trace : (run (.blkEnc true) (keyed counted)).trace.slice 32 16 =
    [0x52#8, 0x46#8, 0x3E#8, 0x41#8, 0x25#8, 0x3A#8, 0x27#8, 0x9D#8, 0xAA#8, 0x0A#8, 0xC4#8, 0x57#8, 0xF0#8, 0x4E#8, 0xF9#8, 0x46#8] := by decide +kernel
/-- 95_test_vectors 2.5. -/
theorem test_blk_dec : (run (.blkDec true) { keyed counted with ibuf := warm.obuf }).outputBytes = counted := by decide +kernel
/-- 95_test_vectors 2.5: the first failing check. -/
theorem test_blk_enc_priority : (run (.blkEnc false) { State.reset with keylen := 257#32, ilen := 3#32 }).status.word = 0x300#32 ∧
    (run (.blkEnc false) { keyed zeros with rounds := 17#32, ilen := 3#32 }).finfo = 17#32 := by decide +kernel
/-- "HELLO WORLD" with the IV of 95_test_vectors. -/
def hello (input : Bytes) : State := { keyed input with iv := Memory.writeBytes [] 0 [0x10#8, 0x32#8, 0x54#8, 0x76#8, 0x98#8, 0xBA#8, 0xDC#8, 0xFE#8] }
/-- The bytes of "HELLO WORLD". -/
def helloBytes : Bytes := [0x48#8, 0x45#8, 0x4C#8, 0x4C#8, 0x4F#8, 0x20#8, 0x57#8, 0x4F#8, 0x52#8, 0x4C#8, 0x44#8]
/-- Its ciphertext under "test1234", one round (95_test_vectors 2.6). -/
def helloCipher : Bytes :=
  [0x4C#8, 0x53#8, 0xB1#8, 0x0C#8, 0x8F#8, 0xDA#8, 0x37#8, 0x3F#8, 0x11#8, 0xFA#8, 0x92#8, 0xDB#8, 0xB2#8, 0x28#8, 0x85#8, 0x6A#8]
/-- 95_test_vectors 2.6. -/
theorem test_cbc_enc : (run .cbcEnc (hello helloBytes)).outputBytes = helloCipher := by decide +kernel
/-- 95_test_vectors 2.6. -/
theorem test_cbc_enc_too_long : (run .cbcEnc { keyed zeros with ilen := 1017#32 }).finfo = 1017#32 := by decide +kernel
/-- 95_test_vectors 2.6. -/
theorem test_cbc_dec : (run .cbcDec (hello helloCipher)).outputBytes = helloBytes := by decide +kernel
/-- 95_test_vectors 2.6. -/
theorem test_cbc_dec_format : (run .cbcDec { keyed zeros with ilen := 12#32 }).status.word = 0x500#32 ∧
    (run .cbcDec { keyed zeros with ilen := 12#32 }).finfo = 12#32 := by decide +kernel
/-- Computed with the Python program of 95_test_vectors 4 (one round, plaintext bit 0). -/
theorem test_aval_pt : (run .avalPt (keyed zeros)).cnt.slice 0 16 =
      [0x00#8, 0x00#8, 0x00#8, 0x01#8, 0x00#8, 0x02#8, 0x00#8, 0x00#8, 0x02#8, 0x01#8, 0x01#8, 0x02#8, 0x00#8, 0x01#8, 0x02#8, 0x00#8] ∧
    (run .avalPt (keyed zeros)).avPct = 937#32 := by decide +kernel
/-- 95_test_vectors 2.7. -/
theorem test_aval_pt_empty : (run .avalPt { keyed zeros with ilen := 0#32 }).status.word = 0x900#32 := by decide +kernel
/-- Computed with the Python program of 95_test_vectors 4 (one round, key bit 7). -/
theorem test_aval_key : (run .avalKey { keyed zeros with bitidx := 7#32 }).cnt.slice 0 16 =
      [0x05#8, 0x05#8, 0x03#8, 0x04#8, 0x06#8, 0x06#8, 0x04#8, 0x04#8, 0x05#8, 0x02#8, 0x06#8, 0x05#8, 0x03#8, 0x03#8, 0x03#8, 0x03#8] ∧
    (run .avalKey { keyed zeros with bitidx := 7#32 }).avPct = 5234#32 := by decide +kernel
/-- 95_test_vectors 2.7. -/
theorem test_aval_key_index : (run .avalKey { keyed zeros with bitidx := 64#32 }).finfo = 64#32 := by decide +kernel

/-! ## The port -/

/-- One step with an event pending. -/
def portStep (e : PortEvent) (s : State) : Host.Outcome State Fault Refusal :=
  step { s with port := { pending := [e], response := none } }

/-- 20_memory R51, R52; STATUS as in 44_block_engine R246. -/
theorem test_port_reads_status : (after (portStep (.read 4 4) warm)).port.response = some 0xFE#32 := by decide +kernel
/-- 95_test_vectors 3, program E. -/
theorem test_port_write_clears_flags : (after (portStep (.write 4 0x80 11#32) warm)).status.word = 0xB2#32 := by decide +kernel
/-- 95_test_vectors 3, program F: TRACE[0][5][1]. -/
theorem test_port_trace_address : (after (portStep (.read 4 0x40A4) (run (.blkEnc true) (keyed counted)))).port.response = some 0x0A#32 := by decide +kernel
/-- 20_memory R55. -/
theorem test_port_refuses_read_only : (match portStep (.write 4 4 0#32) State.reset with | .refused r => r == .busError .readOnly | _ => false) = true := by decide +kernel
/-- 95_test_vectors 2.8 and program C. -/
theorem test_port_illegal_word : (after (portStep (.write 4 0 0x112#32) State.reset)).finfo = 0x112#32 := by decide +kernel

/-! ## Every obligation with hypotheses has states and operands that meet them

Boundary values of a clause's range are given where a statement has several clauses. -/

/-- The identity round-parameter set of one round. -/
def identityParams : RoundParams where
  sbox := List.range 16
  isbox := List.range 16
  pbox := List.range 64
  ipbox := List.range 64
  rk := [zeros]
  rcon := [zeros]
  mask := [0#8]

/-- A state with an event pending. -/
def pendingAt (s : State) (e : PortEvent) : State := { s with port := { pending := [e], response := none } }

/-- "test1234", one round, the ciphertext of the empty message under the zero IV. -/
def emptyCipher : State := { keyed zeros with ibuf := (run .cbcEnc { keyed zeros with ilen := 0#32 }).obuf }

/-- The reset state with a fault recorded. -/
def halted : State := run (.blkEnc false) State.reset

theorem test_hyps_DecodeAndEncodeAgree :
    decode 0x00000150#32 = .ok (.blkEnc true) := by decide
theorem test_hyps_StepIssuesTheDecodedCommand :
    (pendingAt State.reset (.write 4 (State.reset.cfg.base + 0) 0x50#32)).port.pending =
      .write 4 (State.reset.cfg.base + 0) 0x50#32 :: [] ∧ State.reset.status.busy = false ∧
    (pendingAt State.reset (.write 4 (State.reset.cfg.base + 0) 0x102#32)).port.pending =
      .write 4 (State.reset.cfg.base + 0) 0x102#32 :: [] ∧ legalWord 0x102#32 = false ∧
    decode 0x50#32 = .ok (.blkEnc false) ∧ decode (BitVec.ofNat 32 (0x151 % 2 ^ 32)) = .ok (.blkDec true) ∧
    State.reset.port.pending = [] := by decide +kernel
theorem test_hyps_IllegalWordFaultsAndNothingElse :
    State.reset.status.err = .noFault ∧ (0x200#32 : Word).toNat / 512 ≠ 0 ∧
    BitVec.ofNat 8 (0x02#32 : Word).toNat ∉ [0x00#8, 0x01#8, 0x10#8, 0x11#8, 0x12#8, 0x13#8, 0x20#8, 0x21#8, 0x22#8, 0x23#8,
      0x30#8, 0x31#8, 0x32#8, 0x33#8, 0x40#8, 0x41#8, 0x50#8, 0x51#8, 0x60#8, 0x61#8, 0x70#8, 0x71#8] ∧
    (0x100#32 : Word).toNat / 256 % 2 = 1 ∧ BitVec.ofNat 8 (0x100#32 : Word).toNat ∉ [0x40#8, 0x41#8, 0x50#8, 0x51#8] := by decide
theorem test_hyps_HaltedEngineIgnoresEveryWordButReset :
    halted.status.err ≠ .noFault ∧ halted.status.busy = false ∧
    (pendingAt halted (.write 4 (halted.cfg.base + 0) 1#32)).port.pending = .write 4 (halted.cfg.base + 0) 1#32 :: [] ∧
    (pendingAt halted (.write 4 (halted.cfg.base + 0) 0x101#32)).port.pending =
      .write 4 (halted.cfg.base + 0) 0x101#32 :: [] ∧ (0x101#32 : Word) ≠ 1#32 := by decide +kernel
theorem test_hyps_FaultEntryIsPrecise :
    State.reset.status.err = .noFault ∧ (after (issue 0x50#32 State.reset)).status.err ≠ .noFault ∧
    (after (issue 0x02#32 State.reset)).status.err ≠ .noFault := by decide +kernel
theorem test_hyps_FirstFailingCheckIsReported :
    (checkRows { State.reset with keylen := 256#32 } (.blkEnc false) =
      [⟨true, .badKeylen, 256#32⟩] ++ ⟨false, .badRounds, 0#32⟩ :: [⟨false, .badLen, 0#32⟩]) ∧
    (checkRows { State.reset with keylen := 257#32 } .sboxGen = [] ++ ⟨false, .badKeylen, 257#32⟩ :: []) ∧
    (∀ c ∈ checkRows (keyed zeros) (.blkEnc false), c.passes = true) ∧
    (∀ c ∈ checkRows { keyed zeros with rounds := 16#32, keylen := 256#32 } (.blkEnc true), c.passes = true) ∧
    (keyed zeros).status.err = .noFault ∧ Instr.blkEnc true ∉ [Instr.sysRst, .sboxInv, .pboxInv, .cbcDec] := by decide +kernel
theorem test_hyps_EveryResetGivesTheAllZeroState :
    (pendingAt warm .reset).port.pending = .reset :: [] := by decide +kernel
theorem test_hyps_SysNopSetsDoneOnly :
    State.reset.status.err = .noFault ∧ halted.status.err ≠ .noFault := by decide +kernel
theorem test_hyps_ShuffleIsFisherYates :
    0 < 16 ∧ 0 + 1 < 16 ∧ 14 + 1 < 16 ∧ 0 < 16 ∧ 15 < 16 := by decide
theorem test_hyps_SeedsFoldEveryKeyByteInOrder :
    fnv1a Config.p0 [] ≠ Config.p0.golden ∧ Config.p0.goldenOk = true ∧
    (let c := { Config.p0 with golden := Config.p0.fnvBasis }; fnv1a c [] = c.golden ∧ c.goldenOk = true) := by decide
theorem test_hyps_PositionalInverseLaw :
    [1, 0, 2].length = 3 ∧ tableInvert [1, 0, 2] 3 = .ok [1, 0, 2] ∧ 0 < 3 ∧ 2 < 3 := by decide
theorem test_hyps_LookupInverseLaw :
    (reversal 16).length = 16 ∧ tableInvert (reversal 16) 16 = .ok (reversal 16) := by decide +kernel
theorem test_hyps_ByteStringNumberings :
    0 < 8 * zeros.length ∧ 63 < 8 * zeros.length ∧ 15 < 8 * 2 ∧ [1#4, 2#4].length % 2 = 0 ∧ 7 < zeros.length := by decide
theorem test_hyps_PermuteBitsLaws :
    (reversal 64).length = 64 ∧ tableInvert (reversal 64) 64 = .ok (reversal 64) ∧ counted.length = 8 ∧ zeros.length = 8 := by decide +kernel
theorem test_hyps_TableGenerationCompletes :
    State.reset.status.err = .noFault ∧ State.reset.keylen.toNat ≤ State.reset.cfg.keyCap ∧ State.reset.MemForm ∧
    (let s := { State.reset with keylen := 256#32 }; s.keylen.toNat ≤ s.cfg.keyCap ∧ s.MemForm) := by decide +kernel
theorem test_hyps_TableInversionCompletes :
    let s := loaded (reversal 16) (reversal 64)
    s.status.err = .noFault ∧ s.MemForm ∧ IsBijection s.sboxTable 16 ∧ IsBijection s.pboxTable 64 := by decide +kernel
theorem test_hyps_TableInversionFaultsAtLowestIndex :
    let s := loaded (List.range 15 ++ [14]) (64 :: (List.range 63).map (· + 1))
    s.status.err = .noFault ∧ (16 ≤ (s.sbox.read 15).toNat ∨ ∃ j < 15, (s.sbox.read j).toNat = (s.sbox.read 15).toNat) ∧
    (∀ k < 15, ¬ (16 ≤ (s.sbox.read k).toNat ∨ ∃ j < k, (s.sbox.read j).toNat = (s.sbox.read k).toNat)) ∧
    (64 ≤ (s.pbox.read 0).toNat ∨ ∃ j < 0, (s.pbox.read j).toNat = (s.pbox.read 0).toNat) ∧
    ∀ k < 0, ¬ (64 ≤ (s.pbox.read k).toNat ∨ ∃ j < k, (s.pbox.read j).toNat = (s.pbox.read k).toNat) := by decide +kernel
set_option synthInstance.maxSize 5000 in
theorem test_hyps_warm_flags_truthful :
    warm.FlagsTruthful := by decide +kernel
theorem test_hyps_warm_memory :
    warm.MemForm ∧ warm.status.err = .noFault ∧ warm.KeyOk ∧ warm.RoundsOk ∧ warm.cfg.valid = true := by decide +kernel
set_option synthInstance.maxSize 5000 in
theorem test_hyps_SboxLookupCompletes :
    warm.status.err = .noFault ∧ warm.MemForm ∧ warm.FlagsTruthful ∧ warm.ilen.toNat ≤ warm.cfg.bufCap ∧
    warm.status.sv = true ∧ warm.status.isv = true := by exact ⟨by decide +kernel, test_hyps_warm_memory.1, test_hyps_warm_flags_truthful, by decide +kernel, by decide +kernel,
      by decide +kernel⟩
theorem test_hyps_PboxPermuteCompletes :
    warm.status.err = .noFault ∧ warm.MemForm ∧ warm.FlagsTruthful ∧ warm.ilen = 8#32 ∧
    warm.status.pv = true ∧ warm.status.ipv = true := by exact ⟨by decide +kernel, test_hyps_warm_memory.1, test_hyps_warm_flags_truthful, by decide +kernel, by decide +kernel,
      by decide +kernel⟩
theorem test_hyps_KsNormCompletes :
    (keyed zeros).status.err = .noFault ∧ (keyed zeros).keylen.toNat ≤ (keyed zeros).cfg.keyCap ∧ (keyed zeros).MemForm := by decide +kernel
theorem test_hyps_KsRc16Completes :
    (keyed zeros).status.err = .noFault ∧ (keyed zeros).MemForm := by decide +kernel
theorem test_hyps_KsSubkCompletes :
    warm.status.err = .noFault ∧ warm.KeyOk ∧ warm.RoundsOk ∧ warm.status.sv = true ∧ warm.MemForm := by decide +kernel
theorem test_hyps_KsConstCompletes :
    let s := { keyed zeros with rounds := 16#32 }
    s.status.err = .noFault ∧ s.KeyOk ∧ s.RoundsOk ∧ s.MemForm := by decide +kernel
theorem test_hyps_SchedulesExtendWithMoreRounds :
    1 ≤ 16 := by decide
theorem test_hyps_RotationRule :
    (counted ++ zeros).length = 16 ∧ 127 < 128 ∧ 0 < 128 ∧ 15 < 16 := by decide
theorem test_hyps_OffsetRule :
    counted.length = 8 := by decide
theorem test_hyps_NibbleShuffleRule :
    counted.length = 8 ∧ 0 < 8 ∧ 7 < 8 ∧ (0x80#8 : Byte).toNat / 2 ^ 7 % 2 = 1 := by decide
theorem test_hyps_RoundInverseLaw :
    identityParams.Valid 1 ∧ 0 < 1 ∧ counted.length = 8 := by decide +kernel
theorem test_hyps_RoundForwardCompletes :
    warm.status.err = .noFault ∧ warm.MemForm ∧ warm.RoundsOk ∧ warm.ridx.toNat < warm.rounds.toNat ∧ warm.ilen = 8#32 ∧
    warm.status.sv = true ∧ warm.status.pv = true ∧ warm.status.kv = true ∧ warm.status.cv = true := by decide +kernel
theorem test_hyps_RoundInverseCompletes :
    warm.status.err = .noFault ∧ warm.MemForm ∧ warm.RoundsOk ∧ warm.ridx.toNat < warm.rounds.toNat ∧ warm.ilen = 8#32 ∧
    warm.status.isv = true ∧ warm.status.ipv = true ∧ warm.status.kv = true ∧ warm.status.cv = true := by decide +kernel
theorem test_hyps_LeafRoundsReproduceDerivedRounds :
    warm.status.err = .noFault ∧ warm.MemForm ∧ warm.FlagsTruthful ∧ warm.ridx.toNat < warm.rounds.toNat ∧
    warm.ilen = 8#32 ∧ warm.status.kv = true ∧ warm.status.cv = true ∧
    warm.sboxTable = sboxGen warm.cfg warm.keyMaterial ∧ warm.pboxTable = pboxGen warm.cfg warm.keyMaterial ∧
    warm.status.pv = true ∧ warm.status.isv = true ∧ warm.status.ipv = true := by exact ⟨by decide +kernel, test_hyps_warm_memory.1, test_hyps_warm_flags_truthful, by decide +kernel, by decide +kernel,
      by decide +kernel, by decide +kernel, by decide +kernel, by decide +kernel, by decide +kernel, by decide +kernel,
      by decide +kernel⟩
theorem test_hyps_BlockRoundTrip :
    counted.length = 8 ∧ 1 ≤ 1 := by decide
theorem test_hyps_BlockEncryptionAndDecryptionComplete :
    (keyed zeros).status.err = .noFault ∧ (keyed zeros).MemForm ∧ (keyed zeros).KeyOk ∧ (keyed zeros).RoundsOk ∧
    (keyed zeros).ilen = 8#32 := by decide +kernel
theorem test_hyps_CompositeCommandsRegenerate :
    emptyCipher.status.err = .noFault ∧ emptyCipher.MemForm ∧
    (∀ i ∈ compositeCommands, ∀ c ∈ checkRows emptyCipher i, c.passes = true) ∧
    cbcDec emptyCipher.cfg emptyCipher.inputBytes emptyCipher.keyMaterial emptyCipher.ivBytes emptyCipher.rounds.toNat =
      .ok [] := by decide +kernel
theorem test_hyps_CompositeCommandsAreStateless :
    let s := emptyCipher
    let u := { emptyCipher with sbox := [(3, 7#8)], olen := 5#32, trace := [(0, 1#8)] }
    s ≠ u ∧ s.status.err = .noFault ∧ u.status.err = .noFault ∧ s.MemForm ∧ u.MemForm ∧ s.cfg = u.cfg ∧
    s.keylen = u.keylen ∧ s.rounds = u.rounds ∧ s.ilen = u.ilen ∧ s.bitidx = u.bitidx ∧
    s.keyMaterial = u.keyMaterial ∧ s.inputBytes = u.inputBytes ∧ s.ivBytes = u.ivBytes := by decide +kernel
theorem test_hyps_PaddingRule :
    zeros.length % 8 = 0 ∧ zeros.length ≤ 8 ∧ 8 < zeros.length + 8 ∧ (0x00#8 : Byte).toNat = 0 ∧
    zeros.length + 1 < (0x0A#8 : Byte).toNat ∧ 1 ≤ (0x09#8 : Byte).toNat ∧ (0x09#8 : Byte).toNat ≤ zeros.length + 1 := by decide
theorem test_hyps_PaddingEdgeCase :
    zeros.length = 8 ∧ 1 ≤ 1 ∧ ([] : Bytes).length % 8 = 0 ∧ counted.length % 8 = 0 := by decide
theorem test_hyps_CbcRoundTrip :
    let s := keyed zeros
    let t := run .cbcEnc s
    let u := { s with ilen := t.olen, ibuf := t.obuf }
    s.cfg.valid = true ∧ s.status.err = .noFault ∧ s.MemForm ∧ s.KeyOk ∧ s.RoundsOk ∧ s.ilen.toNat + 8 ≤ s.cfg.bufCap ∧
    u.cfg = s.cfg ∧ u.status.err = .noFault ∧ u.MemForm ∧ u.keylen = s.keylen ∧ u.keyMaterial = s.keyMaterial ∧
    u.rounds = s.rounds ∧ u.ivBytes = s.ivBytes ∧ u.ilen = t.olen ∧ u.inputBytes = t.outputBytes ∧
    s.ivBytes.length = 8 ∧ 1 ≤ s.rounds.toNat := by decide +kernel
theorem test_hyps_CbcEncCompletes :
    let s := { keyed zeros with ilen := 1016#32 }
    s.cfg.valid = true ∧ s.status.err = .noFault ∧ s.MemForm ∧ s.KeyOk ∧ s.RoundsOk ∧ s.ilen.toNat + 8 ≤ s.cfg.bufCap := by decide +kernel
/-- A good pad (last byte 8 of 8 bytes) and a bad one (42), as the Python program of 95_test_vectors 4 computes them. -/
theorem test_hyps_CbcDecCompletes :
    (∀ s ∈ [emptyCipher, keyed zeros], s.status.err = .noFault ∧ s.MemForm ∧ s.KeyOk ∧ s.RoundsOk ∧
      s.ilen.toNat ≤ s.cfg.bufCap ∧ 0 < s.ilen.toNat ∧ s.ilen.toNat % 8 = 0) ∧
    (cbcDecRaw Config.p0 emptyCipher.inputBytes emptyCipher.keyMaterial zeros 1).getD 7 0#8 = 8#8 ∧
    (cbcDecRaw Config.p0 zeros emptyCipher.keyMaterial zeros 1).getD 7 0#8 = 42#8 := by decide +kernel
theorem test_hyps_WrongIvCorruptsFirstBlockOnly :
    zeros.length = 8 ∧ counted.length = 8 ∧ 0 < (zeros ++ counted).length ∧ (zeros ++ counted).length % 8 = 0 := by decide
theorem test_hyps_FlipBitRule :
    0 < 8 * zeros.length ∧ 63 < 8 * zeros.length ∧ 0 < zeros.length ∧ 7 < zeros.length := by decide
theorem test_hyps_AvalancheReportBounds :
    zeros.length = 8 ∧ 1 ≤ 16 := by decide
theorem test_hyps_FlippedBlockPrefixIsUnchanged :
    zeros.length = 8 ∧ 64 < 8 * (zeros ++ [1#8]).length ∧ 7 < 8 * (64 / 64) := by decide
theorem test_hyps_AvalancheCompletes :
    let s := { keyed zeros with bitidx := 63#32 }
    s.cfg.valid = true ∧ s.status.err = .noFault ∧ s.MemForm ∧ s.KeyOk ∧ s.RoundsOk ∧ s.ilen.toNat + 8 ≤ s.cfg.bufCap ∧
    s.bitidx.toNat < 8 * (if FlipTarget.plaintext = .plaintext then s.ilen.toNat else s.keylen.toNat) ∧
    s.bitidx.toNat < 8 * (if FlipTarget.key = .plaintext then s.ilen.toNat else s.keylen.toNat) := by decide +kernel
/-- R51's table written out in `addressMap` and the model's own map place every register and memory alike. -/
theorem test_address_map_matches_the_model :
    addressMap Config.p0 =
      (Reg.all.map fun r => MapRow.mk r.offset 1 r.writable) ++
        MemId.all.map fun m => MapRow.mk m.offset (m.size Config.p0) m.writable := by decide
theorem test_hyps_HostReadReturnsTheElement :
    let c := State.reset.cfg
    let busy := { State.reset with status := { Status.reset with busy := true, err := .badIndex } }
    c.valid = true ∧ State.reset.status.busy = false ∧ busy.status.busy = true ∧
    (pendingAt State.reset (.read 4 (c.base + 0x2C))).port.pending = .read 4 (c.base + 0x2C) :: [] ∧
    (pendingAt busy (.read 4 (c.base + 0x04))).port.pending = .read 4 (c.base + 0x04) :: [] ∧
    (after (step (pendingAt busy (.read 4 (c.base + 0x04))))).port.response = some 0x901#32 ∧
    1023 < c.bufCap ∧ (pendingAt State.reset (.read 4 (c.base + 0x10000 + 4 * 1023))).port.pending =
      .read 4 (c.base + 0x10000 + 4 * 1023) :: [] := by decide +kernel
theorem test_hyps_HostWriteStoresTheElement :
    let c := State.reset.cfg
    c.valid = true ∧ State.reset.MemForm ∧ State.reset.status.busy = false ∧
    (pendingAt State.reset (.write 4 (c.base + 0x1C) 7#32)).port.pending = .write 4 (c.base + 0x1C) 7#32 :: [] ∧
    255 < c.keyCap ∧ (pendingAt State.reset (.write 4 (c.base + 0x02000 + 4 * 255) 7#32)).port.pending =
      .write 4 (c.base + 0x02000 + 4 * 255) 7#32 :: [] := by decide +kernel
set_option synthInstance.maxSize 5000 in
theorem test_hyps_BusErrorsAreExactlyTheRefusals :
    let busy := { State.reset with status := { Status.reset with busy := true } }
    Config.p0.valid = true ∧ State.reset.BusErrorAccess (.read 2 0) ∧ State.reset.BusErrorAccess (.read 4 2) ∧
    State.reset.BusErrorAccess (.read 4 0x30) ∧ State.reset.BusErrorAccess (.read 4 0x11000) ∧
    State.reset.BusErrorAccess (.write 4 4 0#32) ∧ State.reset.BusErrorAccess (.write 4 0xC000 0#32) ∧
    busy.BusErrorAccess (.read 4 0) ∧ ¬ busy.BusErrorAccess (.read 4 4) ∧ ¬ State.reset.BusErrorAccess (.read 4 0x10FFC) ∧
    ¬ State.reset.BusErrorAccess (.write 4 0x1C 0#32) ∧ ¬ State.reset.BusErrorAccess .reset := by decide +kernel
set_option synthInstance.maxSize 5000 in
theorem test_hyps_EveryStepKeepsTheInvariants :
    let s := pendingAt State.reset (.write 4 0 0x20#32)
    s.cfg.valid = true ∧ s.MemForm ∧ s.FlagsTruthful ∧ s.FaultRecordOk ∧ s.ResultsOk ∧
    (after (step s)).status.word = 0x12#32 := by decide +kernel
theorem test_hyps_EveryStepKeepsFaultRecord :
    let s := pendingAt halted (.write 4 0 1#32)
    s.FaultRecordOk ∧ s.status.err ≠ .noFault ∧ (after (step s)).status.word = 0#32 := by decide +kernel
theorem test_hyps_CommandsNeverWriteHostInputs :
    Instr.avalKey ≠ .sysRst := by decide

end Sys2Proof.Tests
end

/-! O17: the bit numbering of R14 and the nibble numbering of R15 in numbers. The laws of `Laws/Bytes.lean` state them by
`BitVec` operations; the lemmas here add what each operation is as a number and where a nibble stands in `nibbles`. -/

namespace Sys2Proof.Machine

/-- The MSB-first bit `k` of a byte is its bit of weight `2^(7 - k)` (R12, R14). -/
theorem byte_getMsbD_eq_div_mod (b : Byte) (k : Nat) (h : k < 8) :
    b.getMsbD k = decide (b.toNat / 2 ^ (7 - k) % 2 = 1) := by
  have hw : 8 - 1 - k = 7 - k := by omega
  rw [BitVec.getMsbD_eq_getLsbD, hw, BitVec.getLsbD, Nat.testBit_eq_decide_div_mod_eq]
  simp [h]

theorem hiNib_toNat (b : Byte) : (hiNib b).toNat = b.toNat / 16 := by
  have hb : b.toNat >>> 4 < 2 ^ 4 := by
    rw [Nat.shiftRight_eq_div_pow]
    exact Nat.div_lt_of_lt_mul b.isLt
  rw [hiNib, BitVec.extractLsb'_toNat, Nat.mod_eq_of_lt hb, Nat.shiftRight_eq_div_pow]

theorem loNib_toNat (b : Byte) : (loNib b).toNat = b.toNat % 16 := by
  rw [loNib, BitVec.extractLsb'_toNat, Nat.shiftRight_zero]

theorem nibPair_toNat (h l : Nibble) : (nibPair h l).toNat = 16 * h.toNat + l.toNat := by
  rw [nibPair, BitVec.toNat_append, ← Nat.shiftLeft_add_eq_or_of_lt l.isLt, Nat.shiftLeft_eq, Nat.mul_comm]

theorem swapNib_toNat (b : Byte) : (swapNib b).toNat = 16 * (b.toNat % 16) + b.toNat / 16 := by
  rw [swapNib, nibPair_toNat, loNib_toNat, hiNib_toNat]

/-- Byte `i` of a string stands in its nibbles at `2i` (high) and `2i + 1` (low). -/
theorem nibbles_getD (s : Bytes) (i : Nat) (h : i < s.length) :
    (nibbles s).getD (2 * i) 0#4 = hiNib (s.getD i 0#8) ∧
      (nibbles s).getD (2 * i + 1) 0#4 = loNib (s.getD i 0#8) := by
  induction s generalizing i with
  | nil => simp at h
  | cons b s ih =>
    cases i with
    | zero => exact ⟨rfl, rfl⟩
    | succ i => exact ih i (Nat.lt_of_succ_lt_succ h)

/-- Settles O17: each clause is the law of `Laws/Bytes.lean`, or the lemma above, of its operation. -/
theorem byteStringNumberings : Obligations.ByteStringNumberings := by
  refine ⟨?bit, ?fromBits, ?byteNibbles, nibPair_toNat, ?ofNibbles, ?toNibbles⟩
  case bit => exact fun s i _ => byte_getMsbD_eq_div_mod (byteAt s (i / 8)) (i % 8) (Nat.mod_lt i (by decide))
  case fromBits => exact fun n b => ⟨fromBits_length n b, bitAt_fromBits n b⟩
  case byteNibbles => exact fun b => ⟨hiNib_toNat b, loNib_toNat b, swapNib_toNat b⟩
  case ofNibbles =>
    intro l heven
    have hl : l.length = 2 * (l.length / 2) := by omega
    exact nibbles_fromNibbles (l.length / 2) l hl
  case toNibbles => exact fun s => ⟨nibbles_length s, fromNibbles_nibbles s, nibbles_getD s⟩

end Sys2Proof.Machine

/-! Tables: what a bijection is as a permutation, that `Shuffle` answers one (40_sbox R104, R107), what `TableInvert`
answers in closed form (R108), and that its answer is the positional inverse (R109, R110). -/

namespace Sys2Proof.Machine

/-! ## Bijections -/

/-- A bijection over 0..n−1 is a permutation of the identity table. -/
theorem isBijection_iff_perm_range (t : List Nat) (n : Nat) : IsBijection t n ↔ t.Perm (List.range n) := by
  constructor
  · rintro ⟨hlen, hlt, hnodup⟩
    have hsub : t ⊆ List.range n := fun v hv => List.mem_range.mpr (hlt v hv)
    exact (List.subperm_of_subset hnodup hsub).perm_of_length_le (by simp [hlen])
  · intro h
    exact ⟨by simpa using h.length_eq, fun v hv => by simpa using h.mem_iff.mp hv, h.nodup_iff.mpr List.nodup_range⟩

theorem IsBijection.mem_iff {t : List Nat} {n : Nat} (h : IsBijection t n) (v : Nat) : v ∈ t ↔ v < n := by
  rw [((isBijection_iff_perm_range t n).mp h).mem_iff, List.mem_range]

/-! ## The shuffle -/

theorem swapEntries_perm (a : List Nat) {i j : Nat} (hi : i < a.length) (hj : j < a.length) :
    (swapEntries a i j).Perm a := by
  rw [swapEntries, List.getD_eq_getElem a 0 hi, List.getD_eq_getElem a 0 hj]
  exact List.set_set_perm hi hj

/-- The loop of `Shuffle` only swaps entries of the table (R104). -/
theorem shuffleFrom_perm (c : Config) (i : Nat) (x : Word) (a : List Nat) (hi : i < a.length) :
    (shuffleFrom c i x a).Perm a := by
  induction i generalizing x a with
  | zero => rfl
  | succ i ih =>
    have hdraw : (lcgNext c x >>> 16).toNat % (i + 2) < i + 2 := Nat.mod_lt _ (by omega)
    rw [shuffleFrom]
    exact (ih _ _ (by rw [swapEntries_length]; omega)).trans (swapEntries_perm a hi (by omega))

theorem shuffle_isBijection (c : Config) {n : Nat} (seed : Word) (hn : 0 < n) : IsBijection (shuffle c n seed) n :=
  (isBijection_iff_perm_range _ n).mpr
    (shuffleFrom_perm c (n - 1) seed (List.range n) (by rw [List.length_range]; omega))

theorem sboxGen_isBijection (c : Config) (k : Bytes) : IsBijection (sboxGen c k) 16 :=
  shuffle_isBijection c _ (by decide)

theorem pboxGen_isBijection (c : Config) (k : Bytes) : IsBijection (pboxGen c k) 64 :=
  shuffle_isBijection c _ (by decide)

/-! ## The positional inverse -/

/-- The inverse `TableInvert` holds once it has read the entries `pre`: at `v` the index of `v` among them, EMPTY where
`v` has not been read (R108). -/
def inverseSoFar (n : Nat) (pre : List Nat) : List (Option Nat) := (List.range n).map fun v => pre.idxOf? v

theorem inverseSoFar_nil (n : Nat) : inverseSoFar n [] = List.replicate n none := by
  simp [inverseSoFar, List.map_const']

theorem inverseSoFar_getD {n v : Nat} (pre : List Nat) (hv : v < n) :
    (inverseSoFar n pre).getD v none = pre.idxOf? v := by
  simp [inverseSoFar, hv]

/-- Reading one new entry fills its place in the inverse. -/
theorem inverseSoFar_set (n : Nat) {v : Nat} {pre : List Nat} (hnew : v ∉ pre) :
    (inverseSoFar n pre).set v (some pre.length) = inverseSoFar n (pre ++ [v]) := by
  apply List.ext_getElem (by simp [inverseSoFar])
  intro w _ _
  have happ : (pre ++ [v]).idxOf? w = (pre.idxOf? w).or (if v = w then some pre.length else none) := by
    by_cases h : v = w <;> simp [List.idxOf?, List.findIdx?_append, h]
  by_cases hvw : v = w
  · subst hvw
    simp [inverseSoFar, happ, List.idxOf?_eq_none_iff.mpr hnew]
  · simp [inverseSoFar, happ, hvw]

/-- One turn of the loop of `TableInvert`: an entry that is in range and new is placed, any other ends the loop. -/
theorem invertFrom_cons (n v : Nat) (pre rest : List Nat) :
    invertFrom n pre.length (v :: rest) (inverseSoFar n pre) =
      if v < n ∧ v ∉ pre then invertFrom n (pre ++ [v]).length rest (inverseSoFar n (pre ++ [v]))
      else .fail pre.length := by
  by_cases hrange : v < n
  · rw [invertFrom, inverseSoFar_getD pre hrange, if_neg (Nat.not_le.mpr hrange)]
    by_cases hnew : v ∈ pre
    · simp [hnew]
    · simp [hrange, hnew, inverseSoFar_set n hnew]
  · simp [invertFrom, hrange]

/-- The loop of `TableInvert` answers exactly when what is left is in range and repeats nothing, and then with the
inverse of the whole table. -/
theorem invertFrom_eq_ok_iff (n : Nat) (pre rest u : List Nat) :
    invertFrom n pre.length rest (inverseSoFar n pre) = .ok u ↔
      (∀ v ∈ rest, v < n ∧ v ∉ pre) ∧ rest.Nodup ∧ u = (inverseSoFar n (pre ++ rest)).map fun e => e.getD 0 := by
  induction rest generalizing pre with
  | nil => simp [invertFrom, eq_comm]
  | cons v rest ih =>
    rw [invertFrom_cons]
    split
    case isTrue hv =>
      have hentries : ((∀ w ∈ rest, w < n ∧ w ∉ pre ++ [v]) ∧ rest.Nodup) ↔
          (∀ w ∈ v :: rest, w < n ∧ w ∉ pre) ∧ (v :: rest).Nodup := by
        grind
      rw [ih, List.append_assoc, List.singleton_append, ← and_assoc, hentries, and_assoc]
    case isFalse hv => simp [hv]

/-- `TableInvert` answers exactly for bijections, at each `v` the index of `v` in the table (R108). -/
theorem tableInvert_eq_ok_iff {t : List Nat} {n : Nat} (hlen : t.length = n) (u : List Nat) :
    tableInvert t n = .ok u ↔ IsBijection t n ∧ u = (List.range n).map fun v => t.idxOf v := by
  have hloop : tableInvert t n = .ok u ↔ IsBijection t n ∧ u = (inverseSoFar n t).map fun e => e.getD 0 := by
    have h := invertFrom_eq_ok_iff n [] t u
    rw [inverseSoFar_nil] at h
    simpa [tableInvert, hlen, and_assoc] using h
  rw [hloop]
  refine and_congr_right fun hb => ?_
  have hclosed : (inverseSoFar n t).map (fun e => e.getD 0) = (List.range n).map fun v => t.idxOf v := by
    rw [inverseSoFar, List.map_map]
    apply List.map_congr_left
    intro v hv
    obtain ⟨k, hk⟩ := Option.isSome_iff_exists.mp (List.isSome_idxOf?.mpr ((hb.mem_iff v).mpr (List.mem_range.mp hv)))
    simp [List.idxOf_eq_getD_idxOf?, hk]
  rw [hclosed]

theorem tableInvert_of_isBijection {t : List Nat} {n : Nat} (h : IsBijection t n) :
    tableInvert t n = .ok ((List.range n).map fun v => t.idxOf v) :=
  (tableInvert_eq_ok_iff h.1 _).mpr ⟨h, rfl⟩

/-- The indices of 0..n−1 in a bijection are its positional inverse. -/
theorem IsBijection.inverseTables_idxOf {t : List Nat} {n : Nat} (h : IsBijection t n) :
    InverseTables t ((List.range n).map fun v => t.idxOf v) n := by
  have hmem := h.mem_iff
  obtain ⟨hlen, hlt, hnodup⟩ := h
  have hentry : ∀ v < n, ((List.range n).map fun v => t.idxOf v).getD v 0 = t.idxOf v := by
    intro v hv
    simp [hv]
  have hidx : ∀ v < n, t.idxOf v < t.length := fun v hv => List.idxOf_lt_length_iff.mpr ((hmem v).mpr hv)
  have hback : ∀ v < n, t.getD (t.idxOf v) 0 = v := by
    intro v hv
    rw [List.getD_eq_getElem t 0 (hidx v hv), List.getElem_idxOf]
  refine ⟨⟨hlen, hlt, hnodup⟩, ⟨by simp, ?range, ?nodup⟩, ?left, ?right⟩
  case range =>
    intro i hi
    obtain ⟨v, hv, rfl⟩ := List.mem_map.mp hi
    exact hlen ▸ hidx v (List.mem_range.mp hv)
  case nodup =>
    refine List.nodup_range.map_on fun v hv w hw heq => ?_
    rw [← hback v (List.mem_range.mp hv), heq, hback w (List.mem_range.mp hw)]
  case left =>
    intro i hi
    have hget : t.getD i 0 = t[i]'(hlen ▸ hi) := List.getD_eq_getElem t 0 (hlen ▸ hi)
    rw [hget, hentry _ (hlt _ (List.getElem_mem _)), hnodup.idxOf_getElem]
  case right =>
    intro v hv
    rw [hentry v hv, hback v hv]

/-- A table and what `TableInvert` answers for it are each other's positional inverse (R109, R110). -/
theorem tableInvert_inverseTables {t u : List Nat} {n : Nat} (hlen : t.length = n) (h : tableInvert t n = .ok u) :
    InverseTables t u n := by
  obtain ⟨hb, rfl⟩ := (tableInvert_eq_ok_iff hlen u).mp h
  exact hb.inverseTables_idxOf

end Sys2Proof.Machine

/-! Every command as its checks and its effect, and every step as one of five kinds: what O56, O57, O58 and O60 are derived
from. -/

namespace Sys2Proof.Machine

/-! ## The commands but SYS.RST -/

/-- The checks of a command, in the order its rule makes them. SYS.RST makes none. -/
def commandChecks (s : State) : Instr → List (Option FaultRecord)
  | .sysNop | .sysRst | .ksRc16 => []
  | .sboxGen | .pboxGen | .ksNorm => [s.checkKeylen]
  | .sboxInv => [(tableInvert s.sboxTable 16).check]
  | .sboxFwd => [s.checkInputLen, checkReady [(s.status.sv, svBit)]]
  | .sboxBwd => [s.checkInputLen, checkReady [(s.status.isv, isvBit)]]
  | .pboxInv => [(tableInvert s.pboxTable 64).check]
  | .pboxFwd => [s.checkBlockLen, checkReady [(s.status.pv, pvBit)]]
  | .pboxBwd => [s.checkBlockLen, checkReady [(s.status.ipv, ipvBit)]]
  | .ksSubk => [s.checkKeylen, s.checkRounds, checkReady [(s.status.sv, svBit)]]
  | .ksConst => [s.checkKeylen, s.checkRounds]
  | .rndFwd _ =>
    [s.checkRounds, s.checkRidx, s.checkBlockLen,
      checkReady [(s.status.sv, svBit), (s.status.pv, pvBit), (s.status.kv, kvBit), (s.status.cv, cvBit)]]
  | .rndInv _ =>
    [s.checkRounds, s.checkRidx, s.checkBlockLen,
      checkReady [(s.status.isv, isvBit), (s.status.ipv, ipvBit), (s.status.kv, kvBit), (s.status.cv, cvBit)]]
  | .blkEnc _ | .blkDec _ => [s.checkKeylen, s.checkRounds, s.checkBlockLen]
  | .cbcEnc => [s.checkKeylen, s.checkRounds, s.checkPadLen]
  | .cbcDec => [s.checkKeylen, s.checkRounds, s.checkInputLen, s.checkFormat, s.cbcPlaintext.check]
  | .avalPt => [s.checkKeylen, s.checkRounds, s.checkPadLen, s.checkBitidx s.ilen.toNat]
  | .avalKey => [s.checkKeylen, s.checkRounds, s.checkPadLen, s.checkBitidx s.keylen.toNat]

/-- What a command whose checks pass does, DONE and the records a traced command writes to TRACE apart. SYS.RST is no such
command (`exec_eq_runCommand`). -/
def commandEffect (s : State) : Instr → State
  | .sysNop | .sysRst => s
  | .sboxGen =>
    { s with sbox := s.sbox.writeBytes 0 (tableBytes (sboxGen s.cfg s.keyMaterial)) }.flagEvent .sboxGen
  | .sboxInv =>
    { s with isbox := s.isbox.writeBytes 0 (tableBytes (tableInvert s.sboxTable 16).table) }.flagEvent .sboxInv
  | .sboxFwd => s.putOutput (subNibbles s.inputBytes s.sboxTable)
  | .sboxBwd => s.putOutput (subNibbles s.inputBytes s.isboxTable)
  | .pboxGen =>
    { s with pbox := s.pbox.writeBytes 0 (tableBytes (pboxGen s.cfg s.keyMaterial)) }.flagEvent .pboxGen
  | .pboxInv =>
    { s with ipbox := s.ipbox.writeBytes 0 (tableBytes (tableInvert s.pboxTable 64).table) }.flagEvent .pboxInv
  | .pboxFwd => s.putOutput (permuteBits s.inputBlock s.pboxTable)
  | .pboxBwd => s.putOutput (permuteBits s.inputBlock s.ipboxTable)
  | .ksNorm => { s with nkey := s.nkey.writeBytes 0 (normalizeKey s.keyMaterial) }
  | .ksRc16 => { s with rc16 := s.rc16.writeBytes 0 (roundConstant16 s.cfg s.ridx) }
  | .ksSubk =>
    { s with
      rk := s.rk.writeBytes 0
        (deriveSubkeys s.cfg s.keyMaterial s.rounds.toNat s.sboxTable).flatten }.flagEvent .ksSubk
  | .ksConst =>
    { s with
      rcon := s.rcon.writeBytes 0 (deriveRoundConsts8 s.cfg s.keyMaterial s.rounds.toNat).flatten
      mask := s.mask.writeBytes 0
        (deriveRoundMasks (deriveRoundConsts8 s.cfg s.keyMaterial s.rounds.toNat)) }.flagEvent .ksConst
  | .rndFwd _ => s.putOutput (roundFwd s.inputBlock s.ridx.toNat s.roundParams)
  | .rndInv _ => s.putOutput (roundInv s.inputBlock s.ridx.toNat s.roundParams)
  | .blkEnc _ => s.regen.putOutput (encBlock s.cfg s.inputBlock s.rounds.toNat s.keyMaterial)
  | .blkDec _ => s.regen.putOutput (decBlock s.cfg s.inputBlock s.rounds.toNat s.keyMaterial)
  | .cbcEnc => s.regen.putOutput s.cbcCiphertext
  | .cbcDec => s.regen.putOutput s.cbcPlaintext.bytes
  | .avalPt => s.regen.putReport (s.avalancheReport .plaintext)
  | .avalKey => s.regen.putReport (s.avalancheReport .key)

/-- The state with other records in TRACE. -/
def State.withTrace (s : State) (records : Memory) : State := { s with trace := records }

theorem runCommand_withTrace_self (s e : State) (checks : List (Option FaultRecord)) :
    runCommand s checks e = runCommand s checks (e.withTrace e.trace) := rfl

/-- Every command but SYS.RST is `runCommand` on its checks and its effect, with some records in TRACE when it is
traced. -/
theorem exec_eq_runCommand {i : Instr} (hi : i ≠ .sysRst) (s : State) :
    ∃ records : Memory, exec i s = runCommand s (commandChecks s i) ((commandEffect s i).withTrace records) := by
  cases i
  case sysRst => exact absurd rfl hi
  case sysNop => exact ⟨_, runCommand_withTrace_self s s []⟩
  case ksRc16 => exact ⟨_, runCommand_withTrace_self s _ []⟩
  case rndFwd t => exact ⟨_, congrArg (runCommand s _) (State.traceIf_eq _ t _ _)⟩
  case rndInv t => exact ⟨_, congrArg (runCommand s _) (State.traceIf_eq _ t _ _)⟩
  case blkEnc t =>
    cases t with
    | false => exact ⟨_, runCommand_withTrace_self s _ _⟩
    | true => exact ⟨_, congrArg (runCommand s _) (State.traceFwd_eq ..)⟩
  case blkDec t =>
    cases t with
    | false => exact ⟨_, runCommand_withTrace_self s _ _⟩
    | true => exact ⟨_, congrArg (runCommand s _) (State.traceInv_eq ..)⟩
  all_goals exact ⟨_, runCommand_withTrace_self s _ _⟩

/-- A check that fails with a fault of 60_exceptions R321, never with the code 0 of "no fault". -/
def RaisesFault (c : Option FaultRecord) : Prop := ∀ f, c = some f → f.code ≠ .noFault

theorem commandChecks_raisesFault (s : State) (i : Instr) : ∀ c ∈ commandChecks s i, RaisesFault c := by
  have hall : ∀ len l r u, ∀ c ∈ [s.checkKeylen, s.checkRounds, s.checkRidx, s.checkBlockLen, s.checkInputLen,
      s.checkPadLen, s.checkFormat, s.checkBitidx len, checkReady l, InvertResult.check r, UnpadResult.check u],
      RaisesFault c :=
    fun len l r u c hc f hf => State.checks_code_ne_noFault s len l r u f (hf ▸ hc)
  have : Nonempty InvertResult := ⟨.ok []⟩
  have : Nonempty UnpadResult := ⟨.ok []⟩
  simp only [List.forall_mem_cons, forall_and, forall_const] at hall
  cases i <;> simp [commandChecks, hall]

/-- What every command but SYS.RST leaves alone when its checks pass: the parameters, the port, the operand registers and
FINFO, the host's input memories, BUSY and ERR (10_state R39; 20_memory R68). -/
structure CommandFrame (s e : State) : Prop where
  cfg : e.cfg = s.cfg
  port : e.port = s.port
  rounds : e.rounds = s.rounds
  keylen : e.keylen = s.keylen
  ilen : e.ilen = s.ilen
  ridx : e.ridx = s.ridx
  bitidx : e.bitidx = s.bitidx
  finfo : e.finfo = s.finfo
  kmem : e.kmem = s.kmem
  iv : e.iv = s.iv
  ibuf : e.ibuf = s.ibuf
  busy : e.status.busy = s.status.busy
  err : e.status.err = s.status.err

theorem commandEffect_frame (s : State) (i : Instr) : CommandFrame s (commandEffect s i) := by
  cases i <;> constructor <;> simp [commandEffect]

/-- Everything a command that answers a state can have done (60_exceptions R320, R325): reset, nothing in a halted engine,
a fault, or its effect and DONE. -/
theorem exec_inv {i : Instr} {s t : State} (h : exec i s = .next t) :
    (i = .sysRst ∧ t = s.toReset) ∨
    (s.halted = true ∧ t = s) ∨
    (s.halted = false ∧ ∃ code info, code ≠ FaultCode.noFault ∧ t = s.takeFault code info) ∨
    (s.halted = false ∧ i ≠ .sysRst ∧ (∀ c ∈ commandChecks s i, c = none) ∧
      ∃ records : Memory, t = ((commandEffect s i).withTrace records).complete) := by
  by_cases hi : i = .sysRst
  · subst hi
    cases h
    exact .inl ⟨rfl, rfl⟩
  · obtain ⟨records, hrun⟩ := exec_eq_runCommand hi s
    rcases runCommand_inv (hrun ▸ h) with ⟨hhalt, rfl⟩ | ⟨hhalt, f, hf, rfl⟩ | ⟨hhalt, hpass, rfl⟩
    · exact .inr (.inl ⟨hhalt, rfl⟩)
    · obtain ⟨pre, post, hchecks, _⟩ := (firstFailure_eq_some_iff _ f).mp hf
      have hraise := commandChecks_raisesFault s i (some f) (by simp [hchecks]) f rfl
      exact .inr (.inr (.inl ⟨hhalt, f.code, f.info, hraise, rfl⟩))
    · exact .inr (.inr (.inr ⟨hhalt, hi, (firstFailure_eq_none_iff _).mp hpass, records, rfl⟩))

/-! ## Steps -/

/-- What a step from `s` can have done: nothing but at the port, in which an access is taken up and a read answered; a
reset; a host write; a fault; a command's effect. -/
inductive StepKind (s : State) : State → Prop
  | quiet (port : Port) : StepKind s { s with port := port }
  | reset (rest : List PortEvent) : StepKind s (s.accept rest).toReset
  | hostWrite (rest : List PortEvent) (l : Location) (v : Word) : StepKind s ((s.accept rest).writeLocation l v)
  | fault (rest : List PortEvent) (code : FaultCode) (info : Word) :
    s.halted = false → code ≠ .noFault → StepKind s ((s.accept rest).takeFault code info)
  | command (rest : List PortEvent) (i : Instr) (records : Memory) :
    s.halted = false → (∀ c ∈ commandChecks (s.accept rest) i, c = none) →
      StepKind s ((commandEffect (s.accept rest) i).withTrace records).complete

/-- Everything an issued command word can do is a kind of step. -/
theorem issue_kind {w : Word} {s t : State} {rest : List PortEvent} (h : issue w (s.accept rest) = .next t) :
    StepKind s t := by
  unfold issue at h
  split at h
  · rcases exec_inv h with ⟨rfl, rfl⟩ | ⟨_, rfl⟩ | ⟨hhalt, code, info, hcode, rfl⟩ |
      ⟨hhalt, _, hpass, records, rfl⟩
    · exact .reset rest
    · exact .quiet _
    · exact .fault rest code info hhalt hcode
    · exact .command rest _ records hhalt hpass
  · cases h
    cases hhalt : s.halted with
    | true =>
      rw [State.illegalCommand, if_pos (by simpa using hhalt)]
      exact .quiet _
    | false =>
      rw [State.illegalCommand, if_neg (by simp [hhalt])]
      exact .fault rest .illegalCmd w hhalt (by decide)

theorem step_kind {s t : State} (h : step s = .next t) : StepKind s t := by
  rcases step_inv h with ⟨_, rfl⟩ | ⟨_, _, rest, l, _, _, rfl⟩ | ⟨rest, _, rfl⟩ |
    ⟨_, _, v, rest, l, _, _, _, _, rfl⟩ | ⟨_, _, w, rest, _, _, hissue⟩
  · exact .quiet t.port
  · exact .quiet _
  · exact .reset rest
  · exact .hostWrite rest l v
  · exact issue_kind hissue

end Sys2Proof.Machine

/-! O56: each event of 10_state R28 keeps the valid flags truthful, one lemma an event, and every other thing a step
does leaves alone what the flags speak of. -/

namespace Sys2Proof.Machine

/-! ## What a guarded memory reads back as -/

theorem Memory.table_writeBytes_of_isBijection {m : Memory} (hm : m.wf = true) {t : List Nat} {n : Nat}
    (ht : IsBijection t n) (hn : n ≤ 256) : (m.writeBytes 0 (tableBytes t)).table n = t := by
  obtain ⟨rfl, hlt, _⟩ := ht
  exact Memory.table_writeBytes hm fun v hv => Nat.lt_of_lt_of_le (hlt v hv) hn

theorem Memory.isBijection_write {m : Memory} (hm : m.wf = true) {t : List Nat} {n : Nat} (ht : IsBijection t n)
    (hn : n ≤ 256) : IsBijection ((m.writeBytes 0 (tableBytes t)).table n) n := by
  rwa [Memory.table_writeBytes_of_isBijection hm ht hn]

theorem Memory.inverseTables_write {m : Memory} (hm : m.wf = true) {t u : List Nat} {n : Nat}
    (h : InverseTables t u n) (hn : n ≤ 256) : InverseTables t ((m.writeBytes 0 (tableBytes u)).table n) n := by
  rwa [Memory.table_writeBytes_of_isBijection hm h.2.1 hn]

theorem Memory.rows_write_deriveSubkeys {m : Memory} (hm : m.wf = true) (c : Config) (k : Bytes) (n : Nat)
    (sbox : List Nat) :
    (m.writeBytes 0 (deriveSubkeys c k n sbox).flatten).rows n = deriveSubkeys c k n sbox := by
  have h := Memory.rows_writeBytes hm fun b hb => subkeysFrom_mem_length c sbox n 0 (normalizeKey k) b hb
  rwa [subkeysFrom_length] at h

theorem Memory.rows_write_deriveRoundConsts8 {m : Memory} (hm : m.wf = true) (c : Config) (k : Bytes) (n : Nat) :
    (m.writeBytes 0 (deriveRoundConsts8 c k n).flatten).rows n = deriveRoundConsts8 c k n := by
  have h := Memory.rows_writeBytes hm fun b hb => constsFrom_mem_length c n (constSeed c k) b hb
  rwa [constsFrom_length] at h

theorem Memory.slice_write_deriveRoundMasks {m : Memory} (hm : m.wf = true) (c : Config) (k : Bytes) (n : Nat) :
    (m.writeBytes 0 (deriveRoundMasks (deriveRoundConsts8 c k n))).slice 0 n =
      deriveRoundMasks (deriveRoundConsts8 c k n) := by
  have h := Memory.slice_writeBytes hm 0 (deriveRoundMasks (deriveRoundConsts8 c k n))
  rwa [deriveRoundMasks_length, deriveRoundConsts8_length] at h

/-- A NOT_BIJECTION check that passes leaves a table and its positional inverse. -/
theorem inverseTables_of_check {t : List Nat} {n : Nat} (hlen : t.length = n)
    (h : (tableInvert t n).check = none) : InverseTables t (tableInvert t n).table n := by
  obtain ⟨u, hu⟩ := (InvertResult.check_eq_none_iff _).mp h
  rw [hu]
  exact tableInvert_inverseTables hlen hu

/-- A bijection passes the NOT_BIJECTION check. -/
theorem IsBijection.check_eq_none {t : List Nat} {n : Nat} (h : IsBijection t n) : (tableInvert t n).check = none :=
  (InvertResult.check_eq_none_iff _).mpr ⟨_, tableInvert_of_isBijection h⟩

/-! ## The events of R28 -/

theorem State.flagsTruthful_sboxGen {s : State} (h : s.FlagsTruthful) {m : Memory}
    (hm : IsBijection (m.table 16) 16) : ({ s with sbox := m }.flagEvent .sboxGen).FlagsTruthful := by
  obtain ⟨_, _, hpv, hipv, _, hcv⟩ := h
  exact ⟨fun _ => hm, nofun, hpv, hipv, nofun, hcv⟩

theorem State.flagsTruthful_sboxInv {s : State} (h : s.FlagsTruthful) {m : Memory}
    (hm : InverseTables s.sboxTable (m.table 16) 16) :
    ({ s with isbox := m }.flagEvent .sboxInv).FlagsTruthful := by
  obtain ⟨_, _, hpv, hipv, hkv, hcv⟩ := h
  exact ⟨fun _ => hm.1, fun _ => ⟨rfl, hm⟩, hpv, hipv, fun hk => ⟨rfl, (hkv hk).2⟩, hcv⟩

theorem State.flagsTruthful_pboxGen {s : State} (h : s.FlagsTruthful) {m : Memory}
    (hm : IsBijection (m.table 64) 64) : ({ s with pbox := m }.flagEvent .pboxGen).FlagsTruthful := by
  obtain ⟨hsv, hisv, _, _, hkv, hcv⟩ := h
  exact ⟨hsv, hisv, fun _ => hm, nofun, hkv, hcv⟩

theorem State.flagsTruthful_pboxInv {s : State} (h : s.FlagsTruthful) {m : Memory}
    (hm : InverseTables s.pboxTable (m.table 64) 64) :
    ({ s with ipbox := m }.flagEvent .pboxInv).FlagsTruthful := by
  obtain ⟨hsv, hisv, _, _, hkv, hcv⟩ := h
  exact ⟨hsv, hisv, fun _ => hm.1, fun _ => ⟨rfl, hm⟩, hkv, hcv⟩

theorem State.flagsTruthful_ksSubk {s : State} (h : s.FlagsTruthful) {m : Memory} (hsv : s.status.sv = true)
    (hkey : s.KeyOk) (hrounds : s.RoundsOk)
    (hm : m.rows s.rounds.toNat = deriveSubkeys s.cfg s.keyMaterial s.rounds.toNat s.sboxTable) :
    ({ s with rk := m }.flagEvent .ksSubk).FlagsTruthful := by
  obtain ⟨hbij, hisv, hpv, hipv, _, hcv⟩ := h
  exact ⟨hbij, hisv, hpv, hipv, fun _ => ⟨hsv, hkey, hrounds, hm⟩, hcv⟩

theorem State.flagsTruthful_ksConst {s : State} (h : s.FlagsTruthful) {m m' : Memory}
    (hkey : s.KeyOk) (hrounds : s.RoundsOk)
    (hm : m.rows s.rounds.toNat = deriveRoundConsts8 s.cfg s.keyMaterial s.rounds.toNat)
    (hm' : m'.slice 0 s.rounds.toNat = deriveRoundMasks (deriveRoundConsts8 s.cfg s.keyMaterial s.rounds.toNat)) :
    ({ s with rcon := m, mask := m' }.flagEvent .ksConst).FlagsTruthful := by
  obtain ⟨hsv, hisv, hpv, hipv, hkv, _⟩ := h
  exact ⟨hsv, hisv, hpv, hipv, hkv, fun _ => ⟨hkey, hrounds, hm, hm'⟩⟩

theorem State.flagsTruthful_of_tables {s : State} (hsv : s.status.sv = true) (hpv : s.status.pv = true)
    (hsbox : InverseTables s.sboxTable s.isboxTable 16) (hpbox : InverseTables s.pboxTable s.ipboxTable 64)
    (hkey : s.KeyOk) (hrounds : s.RoundsOk)
    (hrk : s.rk.rows s.rounds.toNat = deriveSubkeys s.cfg s.keyMaterial s.rounds.toNat s.sboxTable)
    (hrcon : s.rcon.rows s.rounds.toNat = deriveRoundConsts8 s.cfg s.keyMaterial s.rounds.toNat)
    (hmask : s.mask.slice 0 s.rounds.toNat =
      deriveRoundMasks (deriveRoundConsts8 s.cfg s.keyMaterial s.rounds.toNat)) : s.FlagsTruthful :=
  ⟨fun _ => hsbox.1, fun _ => ⟨hsv, hsbox⟩, fun _ => hpbox.1, fun _ => ⟨hpv, hpbox⟩,
    fun _ => ⟨hsv, hkey, hrounds, hrk⟩, fun _ => ⟨hkey, hrounds, hrcon, hmask⟩⟩

/-! The parts of what Regen derives (R241), by name. -/

theorem State.keyParams_sbox (s : State) : s.keyParams.sbox = sboxGen s.cfg s.keyMaterial := by
  rw [State.keyParams, deriveParams]

theorem State.keyParams_isbox (s : State) :
    s.keyParams.isbox = (tableInvert (sboxGen s.cfg s.keyMaterial) 16).table := by
  rw [State.keyParams, deriveParams]

theorem State.keyParams_pbox (s : State) : s.keyParams.pbox = pboxGen s.cfg s.keyMaterial := by
  rw [State.keyParams, deriveParams]

theorem State.keyParams_ipbox (s : State) :
    s.keyParams.ipbox = (tableInvert (pboxGen s.cfg s.keyMaterial) 64).table := by
  rw [State.keyParams, deriveParams]

theorem State.keyParams_rk (s : State) :
    s.keyParams.rk = deriveSubkeys s.cfg s.keyMaterial s.rounds.toNat (sboxGen s.cfg s.keyMaterial) := by
  rw [State.keyParams, deriveParams]

theorem State.keyParams_rcon (s : State) :
    s.keyParams.rcon = deriveRoundConsts8 s.cfg s.keyMaterial s.rounds.toNat := by
  rw [State.keyParams, deriveParams]

theorem State.keyParams_mask (s : State) :
    s.keyParams.mask = deriveRoundMasks (deriveRoundConsts8 s.cfg s.keyMaterial s.rounds.toNat) := by
  rw [State.keyParams, deriveParams]

/-- Regen leaves every flag 1 and every guarded memory as its flag says, whatever was held before (44_block_engine
R245). -/
theorem State.regen_flagsTruthful {s : State} (hm : s.MemForm) (hkey : s.KeyOk) (hrounds : s.RoundsOk) :
    s.regen.FlagsTruthful := by
  have hS := sboxGen_isBijection s.cfg s.keyMaterial
  have hP := pboxGen_isBijection s.cfg s.keyMaterial
  have hsbox : s.regen.sboxTable = sboxGen s.cfg s.keyMaterial := by
    rw [State.sboxTable, State.regen_sbox, State.keyParams_sbox]
    exact Memory.table_writeBytes_of_isBijection (hm.wf .sbox) hS (by decide)
  have hpbox : s.regen.pboxTable = pboxGen s.cfg s.keyMaterial := by
    rw [State.pboxTable, State.regen_pbox, State.keyParams_pbox]
    exact Memory.table_writeBytes_of_isBijection (hm.wf .pbox) hP (by decide)
  refine State.flagsTruthful_of_tables (s := s.regen) rfl rfl ?sbox ?pbox hkey hrounds ?rk ?rcon ?mask
  case sbox =>
    rw [hsbox, State.isboxTable, State.regen_isbox, State.keyParams_isbox]
    exact Memory.inverseTables_write (hm.wf .isbox) (inverseTables_of_check hS.1 hS.check_eq_none) (by decide)
  case pbox =>
    rw [hpbox, State.ipboxTable, State.regen_ipbox, State.keyParams_ipbox]
    exact Memory.inverseTables_write (hm.wf .ipbox) (inverseTables_of_check hP.1 hP.check_eq_none) (by decide)
  case rk =>
    rw [hsbox, State.regen_rk, State.keyParams_rk]
    exact Memory.rows_write_deriveSubkeys (hm.wf .rk) ..
  case rcon =>
    rw [State.regen_rcon, State.keyParams_rcon]
    exact Memory.rows_write_deriveRoundConsts8 (hm.wf .rcon) ..
  case mask =>
    rw [State.regen_mask, State.keyParams_mask]
    exact Memory.slice_write_deriveRoundMasks (hm.wf .mask) ..

theorem State.flagsTruthful_of_no_flag {s : State} (hsv : s.status.sv = false) (hisv : s.status.isv = false)
    (hpv : s.status.pv = false) (hipv : s.status.ipv = false) (hkv : s.status.kv = false)
    (hcv : s.status.cv = false) : s.FlagsTruthful := by
  rw [State.FlagsTruthful, hsv, hisv, hpv, hipv, hkv, hcv]
  exact ⟨nofun, nofun, nofun, nofun, nofun, nofun⟩

theorem State.putOutput_flagsTruthful {s : State} (h : s.FlagsTruthful) (bs : Bytes) :
    (s.putOutput bs).FlagsTruthful := h

theorem State.putReport_flagsTruthful {s : State} (h : s.FlagsTruthful) (a : AvalancheReport) :
    (s.putReport a).FlagsTruthful := h

theorem State.withTrace_complete_flagsTruthful {s : State} (h : s.FlagsTruthful) (records : Memory) :
    (s.withTrace records).complete.FlagsTruthful := h

/-- The host-write events: a flag stays 1 only where the write leaves alone what it speaks of. -/
theorem State.writeLocation_flagsTruthful {s : State} (h : s.FlagsTruthful) (l : Location) (v : Word) :
    (s.writeLocation l v).FlagsTruthful := by
  obtain ⟨hsv, hisv, hpv, hipv, hkv, hcv⟩ := h
  cases l with
  | reg r =>
    cases r
    case rounds => exact ⟨hsv, hisv, hpv, hipv, nofun, nofun⟩
    case keylen => exact State.flagsTruthful_of_no_flag rfl rfl rfl rfl rfl rfl
    all_goals exact ⟨hsv, hisv, hpv, hipv, hkv, hcv⟩
  | elem m i =>
    cases m
    case sbox => exact ⟨nofun, nofun, hpv, hipv, nofun, hcv⟩
    case pbox => exact ⟨hsv, hisv, nofun, nofun, hkv, hcv⟩
    case kmem => exact State.flagsTruthful_of_no_flag rfl rfl rfl rfl rfl rfl
    all_goals exact ⟨hsv, hisv, hpv, hipv, hkv, hcv⟩

/-! ## Commands and steps -/

theorem keyOk_roundsOk_of_checks {s : State} {l : List (Option FaultRecord)}
    (h : ∀ c ∈ s.checkKeylen :: s.checkRounds :: l, c = none) : s.KeyOk ∧ s.RoundsOk :=
  ⟨s.checkKeylen_eq_none_iff.mp (h _ (by simp)), s.checkRounds_eq_none_iff.mp (h _ (by simp))⟩

/-- A command whose checks pass keeps the flags truthful. Those that set no flag write nothing a flag speaks of. -/
theorem commandEffect_flagsTruthful {s : State} (hm : s.MemForm) (h : s.FlagsTruthful) {i : Instr}
    (hpass : ∀ c ∈ commandChecks s i, c = none) : (commandEffect s i).FlagsTruthful := by
  cases i
  case sboxGen =>
    exact State.flagsTruthful_sboxGen h
      (Memory.isBijection_write (hm.wf .sbox) (sboxGen_isBijection ..) (by decide))
  case sboxInv =>
    have hinv := inverseTables_of_check (Memory.table_length s.sbox 16) (hpass _ (List.mem_singleton_self _))
    exact State.flagsTruthful_sboxInv h (Memory.inverseTables_write (hm.wf .isbox) hinv (by decide))
  case pboxGen =>
    exact State.flagsTruthful_pboxGen h
      (Memory.isBijection_write (hm.wf .pbox) (pboxGen_isBijection ..) (by decide))
  case pboxInv =>
    have hinv := inverseTables_of_check (Memory.table_length s.pbox 64) (hpass _ (List.mem_singleton_self _))
    exact State.flagsTruthful_pboxInv h (Memory.inverseTables_write (hm.wf .ipbox) hinv (by decide))
  case ksSubk =>
    obtain ⟨hkey, hrounds⟩ := keyOk_roundsOk_of_checks hpass
    have hsv : s.status.sv = true :=
      (checkReady_eq_none_iff _).mp (hpass (checkReady [(s.status.sv, svBit)]) (by simp [commandChecks])) _
        (List.mem_singleton_self _)
    exact State.flagsTruthful_ksSubk h hsv hkey hrounds (Memory.rows_write_deriveSubkeys (hm.wf .rk) ..)
  case ksConst =>
    obtain ⟨hkey, hrounds⟩ := keyOk_roundsOk_of_checks hpass
    exact State.flagsTruthful_ksConst h hkey hrounds (Memory.rows_write_deriveRoundConsts8 (hm.wf .rcon) ..)
      (Memory.slice_write_deriveRoundMasks (hm.wf .mask) ..)
  case blkEnc | blkDec | cbcEnc | cbcDec =>
    obtain ⟨hkey, hrounds⟩ := keyOk_roundsOk_of_checks hpass
    exact State.putOutput_flagsTruthful (State.regen_flagsTruthful hm hkey hrounds) _
  case avalPt | avalKey =>
    obtain ⟨hkey, hrounds⟩ := keyOk_roundsOk_of_checks hpass
    exact State.putReport_flagsTruthful (State.regen_flagsTruthful hm hkey hrounds) _
  case sboxFwd | sboxBwd | pboxFwd | pboxBwd | rndFwd | rndInv => exact State.putOutput_flagsTruthful h _
  case sysNop | sysRst | ksNorm | ksRc16 => rw [commandEffect]; exact h

/-- Settles O56, by the kinds of step. -/
theorem everyStepKeepsFlagsTruthful : Obligations.EveryStepKeepsFlagsTruthful := by
  intro s t hm h hstep
  cases step_kind hstep with
  | quiet port => exact h
  | reset rest => exact State.flagsTruthful_of_no_flag rfl rfl rfl rfl rfl rfl
  | hostWrite rest l v => exact State.writeLocation_flagsTruthful (s := s.accept rest) h l v
  | fault rest code info => exact h
  | command rest i records _ hpass =>
    have heffect := commandEffect_flagsTruthful (s := s.accept rest) hm h hpass
    exact State.withTrace_complete_flagsTruthful heffect records

end Sys2Proof.Machine

/-! O9, O57, O59 and O60: the reset state, and what host writes and commands leave of the fault record and of the host's
inputs. -/

namespace Sys2Proof.Machine

/-! ## The reset state -/

/-- STATUS reads as 0 after reset (70_reset_and_hazards R351). -/
theorem Status.reset_word : Status.reset.word = 0#32 := by decide

theorem State.resetOf_allZero (c : Config) (p : Port) : (State.resetOf c p).AllZero := by
  refine ⟨rfl, fun r => ?_, fun m i => ?_⟩
  · cases r
    case status => exact Status.reset_word
    all_goals rfl
  · cases m <;> rfl

theorem State.resetOf_memForm (c : Config) (p : Port) : (State.resetOf c p).MemForm := by
  intro m _
  cases m <;> exact ⟨rfl, rfl⟩

theorem State.resetOf_flagsTruthful (c : Config) (p : Port) : (State.resetOf c p).FlagsTruthful :=
  State.flagsTruthful_of_no_flag rfl rfl rfl rfl rfl rfl

theorem State.resetOf_faultRecordOk (c : Config) (p : Port) : (State.resetOf c p).FaultRecordOk :=
  ⟨rfl, fun h => absurd rfl h, fun _ => rfl⟩

theorem State.resetOf_resultsOk (c : Config) (p : Port) : (State.resetOf c p).ResultsOk :=
  ⟨Nat.zero_le _, Nat.zero_le _, Nat.zero_le _, fun _ _ => Nat.zero_le _⟩

/-- A hardware reset at the head of the port's list is taken by the next step, BUSY or not (70_reset_and_hazards
R350). -/
theorem step_reset {s : State} {rest : List PortEvent} (h : s.port.pending = .reset :: rest) :
    step s = .next (s.accept rest).toReset := by
  rw [step, State.nextAction, h]
  rfl

/-- Settles O9: SYS.RST and a hardware reset answer the reset state under the same parameters. -/
theorem everyResetGivesTheAllZeroState : Obligations.EveryResetGivesTheAllZeroState := by
  refine ⟨fun s => ⟨s.toReset, rfl, ?_⟩, fun s rest h => ⟨(s.accept rest).toReset, step_reset h, ?_⟩, ?_⟩
  all_goals exact State.resetOf_allZero _ _

/-- Settles O59: the clauses on the reset state are the lemmas above, and P0's constraints are checked by evaluation. -/
theorem resetMeetsTheInvariants : Obligations.ResetMeetsTheInvariants := by
  refine ⟨fun c p => ⟨?_, ?_, ?_, ?_⟩, by decide, rfl⟩
  · exact State.resetOf_memForm c p
  · exact State.resetOf_flagsTruthful c p
  · exact State.resetOf_faultRecordOk c p
  · exact State.resetOf_resultsOk c p

/-! ## The fault record -/

/-- What a host write leaves alone, whatever it is to: the parameters, the result registers with CNT, and the fault
record. -/
structure HostWriteFrame (s t : State) : Prop where
  cfg : t.cfg = s.cfg
  olen : t.olen = s.olen
  finfo : t.finfo = s.finfo
  avDiff : t.avDiff = s.avDiff
  avTotal : t.avTotal = s.avTotal
  avPct : t.avPct = s.avPct
  cnt : t.cnt = s.cnt
  busy : t.status.busy = s.status.busy
  done : t.status.done = s.status.done
  err : t.status.err = s.status.err

theorem State.writeLocation_frame (s : State) (l : Location) (v : Word) : HostWriteFrame s (s.writeLocation l v) := by
  cases l with
  | reg r => cases r <;> constructor <;> rfl
  | elem m i => cases m <;> constructor <;> rfl

/-- Settles O57, by the kinds of step: while a fault is recorded a step is quiet, a host write or a reset. -/
theorem everyStepKeepsFaultRecord : Obligations.EveryStepKeepsFaultRecord := by
  intro s t h hstep
  obtain ⟨hbusy, hdone, hfinfo⟩ := h
  cases step_kind hstep with
  | quiet port => exact ⟨⟨hbusy, hdone, hfinfo⟩, fun _ => .inl ⟨rfl, rfl⟩⟩
  | reset rest => exact ⟨State.resetOf_faultRecordOk _ _, fun _ => .inr (State.resetOf_allZero _ _)⟩
  | hostWrite rest l v =>
    have hw := State.writeLocation_frame (s.accept rest) l v
    rw [State.FaultRecordOk, hw.busy, hw.done, hw.err, hw.finfo]
    exact ⟨⟨hbusy, hdone, hfinfo⟩, fun _ => .inl ⟨rfl, rfl⟩⟩
  | fault rest code info hhalt hcode =>
    have herr := (State.halted_eq_false_iff s).mp hhalt
    exact ⟨⟨rfl, fun _ => rfl, fun h => absurd h hcode⟩, fun h => absurd herr h⟩
  | command rest i records hhalt =>
    have herr := (State.halted_eq_false_iff s).mp hhalt
    have hframe := commandEffect_frame (s.accept rest) i
    have herr' := hframe.err.trans herr
    have hfinfo' := hframe.finfo.trans (hfinfo herr)
    exact ⟨⟨hframe.busy.trans hbusy, fun h => absurd herr' h, fun _ => hfinfo'⟩, fun h => absurd herr h⟩

/-! ## The host's inputs -/

/-- Settles O60: an ignored or faulted command writes no input, and an effect has the frame of every command. -/
theorem commandsNeverWriteHostInputs : Obligations.CommandsNeverWriteHostInputs := by
  intro i s hi
  obtain ⟨t, ht⟩ := exec_next i s
  refine ⟨t, ht, ?_⟩
  rcases exec_inv ht with ⟨hrst, _⟩ | ⟨_, rfl⟩ | ⟨_, code, info, _, rfl⟩ | ⟨_, _, _, records, rfl⟩
  · exact absurd hrst hi
  · exact ⟨rfl, rfl, rfl, rfl, rfl, rfl, rfl, rfl⟩
  · exact ⟨rfl, rfl, rfl, rfl, rfl, rfl, rfl, rfl⟩
  · have h := commandEffect_frame s i
    exact ⟨h.rounds, h.keylen, h.ilen, h.ridx, h.bitidx, h.kmem, h.iv, h.ibuf⟩

end Sys2Proof.Machine

/-! O58: how long the outputs of the commands are, how large the avalanche report's numbers are, and that nothing else
changes the result registers. -/

namespace Sys2Proof.Machine

/-! ## Lengths of what the cipher answers -/

/-- The rounds leave an 8-byte State when their constants have 8 bytes. -/
theorem fwdRounds_length {p : RoundParams} {n r : Nat} {s : Bytes} (hs : s.length = 8)
    (hp : ∀ j, j < r + n → (p.rconAt j).length = 8) : (fwdRounds p n r s).length = 8 := by
  induction n generalizing r s with
  | zero => exact hs
  | succ n ih =>
    have hround : (roundFwd s r p).length = 8 := by rw [roundFwd_length, hp r (by omega), Nat.min_self]
    exact ih hround fun j hj => hp j (by omega)

theorem invRounds_length (p : RoundParams) {n : Nat} {s : Bytes} (hs : s.length = 8) :
    (invRounds p n s).length = 8 := by
  induction n generalizing s with
  | zero => exact hs
  | succ n ih => exact ih (roundInv_length s n p)

theorem deriveParams_rconAt_length (c : Config) (k : Bytes) {rounds r : Nat} (hr : r < rounds) :
    ((deriveParams c k rounds).rconAt r).length = 8 := by
  have hlt : r < (deriveRoundConsts8 c k rounds).length := by rwa [deriveRoundConsts8_length]
  rw [RoundParams.rconAt, deriveParams, List.getD_eq_getElem _ _ hlt]
  exact constsFrom_mem_length c rounds (constSeed c k) _ (List.getElem_mem hlt)

theorem encBlock_length (c : Config) {b : Bytes} (rounds : Nat) (k : Bytes) (hb : b.length = 8) :
    (encBlock c b rounds k).length = 8 :=
  fwdRounds_length hb fun _ hj => deriveParams_rconAt_length c k (by omega)

theorem decBlock_length (c : Config) {b : Bytes} (rounds : Nat) (k : Bytes) (hb : b.length = 8) :
    (decBlock c b rounds k).length = 8 :=
  invRounds_length _ hb

theorem cbcEncFrom_length {enc : Bytes → Bytes} (henc : ∀ b, b.length = 8 → (enc b).length = 8) {bs : List Bytes}
    {prev : Bytes} (hbs : ∀ b ∈ bs, b.length = 8) (hprev : prev.length = 8) :
    (cbcEncFrom enc bs prev).length = 8 * bs.length := by
  induction bs generalizing prev with
  | nil => rfl
  | cons b bs ih =>
    have hxor : (xorBytes b prev).length = 8 := by
      rw [xorBytes_length, hbs b List.mem_cons_self, hprev, Nat.min_self]
    have hrest := ih (fun c hc => hbs c (List.mem_cons_of_mem b hc)) (henc _ hxor)
    rw [cbcEncFrom, List.length_append, henc _ hxor, hrest, List.length_cons, Nat.mul_succ, Nat.add_comm]

theorem cbcDecFrom_length {dec : Bytes → Bytes} (hdec : ∀ b, b.length = 8 → (dec b).length = 8) {bs : List Bytes}
    {prev : Bytes} (hbs : ∀ b ∈ bs, b.length = 8) (hprev : prev.length = 8) :
    (cbcDecFrom dec bs prev).length = 8 * bs.length := by
  induction bs generalizing prev with
  | nil => rfl
  | cons b bs ih =>
    have hb := hbs b List.mem_cons_self
    have hrest := ih (fun c hc => hbs c (List.mem_cons_of_mem b hc)) hb
    rw [cbcDecFrom, List.length_append, xorBytes_length, hdec b hb, hprev, hrest, List.length_cons, Nat.min_self,
      Nat.mul_succ, Nat.add_comm]

/-- A ciphertext has the padded length (45_cbc R261, R263). -/
theorem cbcEnc_length (c : Config) (m k : Bytes) {iv : Bytes} (rounds : Nat) (hiv : iv.length = 8) :
    (cbcEnc c m k iv rounds).length = 8 * (m.length / 8 + 1) := by
  have hblocks := blocks8_mem_length ((pad m).length / 8) (pad m) (Nat.mul_div_le _ 8)
  rw [cbcEnc, cbcEncFrom_length (fun b => encBlock_length c rounds k) hblocks hiv, blocks8_length, pad_length_eq,
    Nat.mul_div_cancel_left _ (by decide)]

/-- A raw decryption has the ciphertext's length (45_cbc R264). -/
theorem cbcDecRaw_length (c : Config) {ct : Bytes} (k : Bytes) {iv : Bytes} (rounds : Nat) (hiv : iv.length = 8)
    (hct : ct.length % 8 = 0) : (cbcDecRaw c ct k iv rounds).length = ct.length := by
  have hblocks := blocks8_mem_length (ct.length / 8) ct (Nat.mul_div_le _ 8)
  rw [cbcDecRaw, cbcDecFrom_length (fun b => decBlock_length c rounds k) hblocks hiv, blocks8_length]
  omega

theorem unpad_bytes_length_le (b : Bytes) : (unpad b).bytes.length ≤ b.length := by
  simp only [unpad]
  split
  · exact Nat.zero_le _
  · exact List.length_take_le' _ _

theorem State.cbcCiphertext_length (s : State) : s.cbcCiphertext.length = 8 * (s.ilen.toNat / 8 + 1) := by
  rw [State.cbcCiphertext, cbcEnc_length _ _ _ _ s.ivBytes_length, State.inputBytes_length]

theorem State.cbcPlaintext_length_le {s : State} (h : s.ilen.toNat % 8 = 0) :
    s.cbcPlaintext.bytes.length ≤ s.ilen.toNat := by
  have hraw := cbcDecRaw_length s.cfg (ct := s.inputBytes) s.keyMaterial s.rounds.toNat s.ivBytes_length
    (by rwa [State.inputBytes_length])
  rw [State.inputBytes_length] at hraw
  exact hraw ▸ unpad_bytes_length_le _

/-! ## The avalanche report -/

theorem popCount_le (b : Byte) : popCount b ≤ 8 := by
  simpa [popCount] using List.countP_le_length (p := fun i => b.getLsbD i) (l := List.range 8)

theorem bitCounts_le (x y : Bytes) : ∀ n ∈ bitCounts x y, n ≤ 8 := by
  intro n hn
  obtain ⟨i, hi, rfl⟩ := List.getElem_of_mem hn
  simp only [bitCounts, List.getElem_zipWith]
  exact popCount_le _

theorem bitCounts_length_le (x y : Bytes) : (bitCounts x y).length ≤ x.length := by
  rw [bitCounts, List.length_zipWith]
  exact Nat.min_le_left _ _

/-- At most every bit of the baseline differs (46_avalanche R293). -/
theorem hamming_le (x y : Bytes) : hamming x y ≤ 8 * x.length := by
  have hsum := List.sum_le_card_nsmul (bitCounts x y) 8 (bitCounts_le x y)
  have hlen := bitCounts_length_le x y
  rw [smul_eq_mul] at hsum
  rw [hamming]
  omega

/-- The percentage is at most 10000 hundredths (46_avalanche R294). -/
theorem AvalancheReport.percent_le {a : AvalancheReport} (h : a.diff ≤ a.total) : a.percent ≤ 10000 :=
  Nat.div_le_of_le_mul (by rw [Nat.mul_comm a.total]; exact Nat.mul_le_mul_left _ h)

/-! ## The result registers -/

theorem Config.bufCap_bounds {c : Config} (h : c.valid = true) : 8 ≤ c.bufCap ∧ c.bufCap ≤ 4096 := by
  simp only [Config.valid, Config.bufCapOk, Bool.and_eq_true, decide_eq_true_eq] at h
  omega

theorem State.putOutput_resultsOk {s : State} (h : s.ResultsOk) {bs : Bytes} (hlen : bs.length ≤ s.cfg.bufCap) :
    (s.putOutput bs).ResultsOk := by
  obtain ⟨_, hdiff, hpct, hcnt⟩ := h
  refine ⟨?_, hdiff, hpct, hcnt⟩
  rw [State.putOutput_olen, BitVec.toNat_ofNat]
  exact (Nat.mod_le _ _).trans hlen

/-- A report on two runs keeps the results in range, however long the flipped run is. -/
theorem State.putReport_resultsOk {s : State} (h : s.ResultsOk) (hwf : s.cnt.wf = true) (hcap : s.cfg.bufCap ≤ 4096)
    {base : Bytes} (flip : Bytes) (hlen : base.length ≤ s.cfg.bufCap) :
    (s.putReport (compareRuns base flip)).ResultsOk := by
  obtain ⟨_, _, _, hcnt⟩ := h
  have hdiff : (compareRuns base flip).diff ≤ (compareRuns base flip).total := hamming_le base flip
  have htotal : (compareRuns base flip).total < 2 ^ 32 := by
    have : (compareRuns base flip).total = 8 * base.length := rfl
    omega
  refine ⟨?olen, ?diff, ?pct, fun j hj => ?cnt⟩
  case olen =>
    rw [State.putReport_olen, BitVec.toNat_ofNat]
    exact (Nat.mod_le _ _).trans hlen
  case diff =>
    rw [State.putReport_avDiff, State.putReport_avTotal, BitVec.toNat_ofNat, BitVec.toNat_ofNat,
      Nat.mod_eq_of_lt htotal]
    exact (Nat.mod_le _ _).trans hdiff
  case pct =>
    rw [State.putReport_avPct, BitVec.toNat_ofNat]
    exact (Nat.mod_le _ _).trans (AvalancheReport.percent_le hdiff)
  case cnt =>
    rw [State.putReport_cnt_read hwf]
    split
    case isTrue hj' =>
      rw [BitVec.toNat_ofNat, List.getD_eq_getElem _ _ hj']
      exact (Nat.mod_le _ _).trans (bitCounts_le base flip _ (List.getElem_mem hj'))
    case isFalse => exact hcnt j hj

theorem State.regen_resultsOk {s : State} (h : s.ResultsOk) : s.regen.ResultsOk := h

/-- A command whose checks pass keeps the results in range: its length check bounds its output by BUF_CAP. -/
theorem commandEffect_resultsOk {s : State} (hvalid : s.cfg.valid = true) (hm : s.MemForm) (h : s.ResultsOk)
    {i : Instr} (hpass : ∀ c ∈ commandChecks s i, c = none) : (commandEffect s i).ResultsOk := by
  obtain ⟨hlow, hcap⟩ := Config.bufCap_bounds hvalid
  cases i
  case sboxFwd | sboxBwd =>
    have hilen := s.checkInputLen_eq_none_iff.mp (hpass _ (by simp [commandChecks]))
    exact State.putOutput_resultsOk h (by simpa using hilen)
  case pboxFwd | pboxBwd | rndInv => exact State.putOutput_resultsOk h (by simpa using hlow)
  case rndFwd =>
    refine State.putOutput_resultsOk h ?_
    rw [roundFwd_length]
    omega
  case blkEnc => exact State.putOutput_resultsOk h (by rwa [encBlock_length _ _ _ s.inputBlock_length])
  case blkDec => exact State.putOutput_resultsOk h (by rwa [decBlock_length _ _ _ s.inputBlock_length])
  case cbcEnc =>
    have hilen := s.checkPadLen_eq_none_iff.mp (hpass _ (by simp [commandChecks]))
    refine State.putOutput_resultsOk (State.regen_resultsOk h) ?_
    rw [State.cbcCiphertext_length, State.regen_cfg]
    omega
  case cbcDec =>
    have hilen := s.checkInputLen_eq_none_iff.mp (hpass _ (by simp [commandChecks]))
    have hformat := s.checkFormat_eq_none_iff.mp (hpass _ (by simp [commandChecks]))
    exact State.putOutput_resultsOk (State.regen_resultsOk h) ((State.cbcPlaintext_length_le hformat.2).trans hilen)
  case avalPt | avalKey =>
    have hilen := s.checkPadLen_eq_none_iff.mp (hpass _ (by simp [commandChecks]))
    refine State.putReport_resultsOk (State.regen_resultsOk h) (hm.wf .cnt) hcap _ ?_
    rw [cbcEnc_length _ _ _ _ s.ivBytes_length, State.inputBytes_length, State.regen_cfg]
    omega
  all_goals rw [commandEffect]; exact h

/-- Settles O58, by the kinds of step. -/
theorem everyStepKeepsResultsInRange : Obligations.EveryStepKeepsResultsInRange := by
  intro s t hvalid hm h hstep
  cases step_kind hstep with
  | quiet port => exact h
  | reset rest => exact State.resetOf_resultsOk _ _
  | hostWrite rest l v =>
    have hw := State.writeLocation_frame (s.accept rest) l v
    rw [State.ResultsOk, hw.cfg, hw.olen, hw.avDiff, hw.avTotal, hw.avPct, hw.cnt]
    exact h
  | fault rest code info => exact h
  | command rest i records _ hpass => exact commandEffect_resultsOk (s := s.accept rest) hvalid hm h hpass

end Sys2Proof.Machine

/-! The address map of 20_memory R51 as one rule: an access goes to a location exactly when it is 32 bits wide and at that
location's address. -/

namespace Sys2Proof.Machine

/-! ## Locations -/

/-- The parameters give the location: every register, and the elements of a memory below its number of elements (20_memory
R51, "valid indices"). -/
def Location.InMap (c : Config) : Location → Prop
  | .reg _ => True
  | .elem m i => i < m.size c

theorem Reg.mem_all (r : Reg) : r ∈ Reg.all := by cases r <;> decide

theorem MemId.mem_all (m : MemId) : m ∈ MemId.all := by cases m <;> decide

theorem Reg.offset_lt (r : Reg) : r.offset < 0x40 := by cases r <;> decide

theorem MemId.le_offset (m : MemId) : 0x40 ≤ m.offset := by cases m <;> decide

theorem Location.offset_mod_four (l : Location) : l.offset % 4 = 0 := by
  cases l with
  | reg r => cases r <;> rfl
  | elem m i =>
    have hm : m.offset % 4 = 0 := by cases m <;> rfl
    rw [Location.offset]
    omega

theorem Config.sizes_le {c : Config} (h : c.valid = true) : c.roundsMax ≤ 64 ∧ c.keyCap ≤ 1024 ∧ c.bufCap ≤ 4096 := by
  simp only [Config.valid, Config.roundsMaxOk, Config.keyCapOk, Config.bufCapOk, Bool.and_eq_true,
    decide_eq_true_eq] at h
  omega

theorem Config.base_mod_four {c : Config} (h : c.valid = true) : c.base % 4 = 0 := by
  simp only [Config.valid, Config.baseOk, Bool.and_eq_true, beq_iff_eq] at h
  omega

/-- The region of `m` ends where that of `m'` begins or before. -/
def MemId.EndsBefore (c : Config) (m m' : MemId) : Prop := m.offset + 4 * m.size c ≤ m'.offset

/-- The regions of R51 stand in rising order and do not meet. -/
theorem MemId.all_endsBefore {c : Config} (h : c.valid = true) : MemId.all.Pairwise (MemId.EndsBefore c) := by
  obtain ⟨hrounds, hkey, hbuf⟩ := Config.sizes_le h
  have : Trans (MemId.EndsBefore c) (MemId.EndsBefore c) (MemId.EndsBefore c) :=
    ⟨fun h h' => (Nat.le_trans h (Nat.le_add_right ..)).trans h'⟩
  rw [← List.isChain_iff_pairwise]
  simp only [MemId.all, List.isChain_cons_cons, List.isChain_singleton, MemId.EndsBefore, MemId.offset, MemId.size,
    and_true]
  omega

/-- An offset lies in the region of at most one memory. -/
theorem MemId.eq_of_offset_mem {c : Config} (h : c.valid = true) {m m' : MemId} {off : Nat}
    (hm : m.offset ≤ off ∧ off < m.offset + 4 * m.size c)
    (hm' : m'.offset ≤ off ∧ off < m'.offset + 4 * m'.size c) : m = m' := by
  by_contra hne
  have hapart : MemId.all.Pairwise fun a b => a.EndsBefore c b ∨ b.EndsBefore c a :=
    (MemId.all_endsBefore h).imp .inl
  have : Std.Symm fun a b : MemId => a.EndsBefore c b ∨ b.EndsBefore c a := ⟨fun _ _ => Or.symm⟩
  have := hapart.forall m.mem_all m'.mem_all hne
  simp only [MemId.EndsBefore] at this
  omega

theorem Location.offset_lt_windowSize {c : Config} (h : c.valid = true) {l : Location} (hl : l.InMap c) :
    l.offset < windowSize := by
  obtain ⟨hrounds, hkey, hbuf⟩ := Config.sizes_le h
  cases l with
  | reg r => exact r.offset_lt.trans (by decide)
  | elem m i =>
    have hi : i < m.size c := hl
    have hend : m.offset + 4 * m.size c ≤ windowSize := by
      cases m <;> simp only [MemId.offset, MemId.size, windowSize] <;> omega
    rw [Location.offset]
    omega

/-! ## The lookup -/

theorem locate_reg (c : Config) (r : Reg) : locate c r.offset = some (.reg r) := by cases r <;> rfl

theorem locate_elem {c : Config} (h : c.valid = true) {m : MemId} {i : Nat} (hi : i < m.size c) :
    locate c (m.offset + 4 * i) = some (.elem m i) := by
  have hreg : Reg.all.find? (fun r => r.offset == m.offset + 4 * i) = none := by
    simp only [List.find?_eq_none, beq_iff_eq]
    intro r _
    have := r.offset_lt
    have := m.le_offset
    omega
  rw [locate, hreg]
  cases hfind : MemId.all.find? fun m' => decide (m'.offset ≤ m.offset + 4 * i) &&
      decide (m.offset + 4 * i < m'.offset + 4 * m'.size c) with
  | none =>
    have hm := List.find?_eq_none.mp hfind m m.mem_all
    simp only [Bool.and_eq_true, decide_eq_true_eq] at hm
    omega
  | some m' =>
    have hm' := List.find?_some hfind
    simp only [Bool.and_eq_true, decide_eq_true_eq] at hm'
    obtain rfl := MemId.eq_of_offset_mem h (m := m) ⟨by omega, by omega⟩ hm'
    simp

/-- The lookup finds exactly the location at the offset. -/
theorem locate_eq_some_iff {c : Config} (h : c.valid = true) {off : Nat} {l : Location} :
    locate c off = some l ↔ l.InMap c ∧ off = l.offset := by
  constructor
  · intro hl
    rw [locate] at hl
    split at hl
    case h_1 r hr =>
      cases hl
      exact ⟨trivial, (beq_iff_eq.mp (List.find?_some hr :)).symm⟩
    case h_2 =>
      split at hl
      case h_1 m hm =>
        have hm := List.find?_some hm
        simp only [Bool.and_eq_true, decide_eq_true_eq] at hm
        split at hl <;> cases hl
        simp only [Location.InMap, Location.offset]
        omega
      case h_2 => cases hl
  · rintro ⟨hl, rfl⟩
    cases l with
    | reg r => exact locate_reg c r
    | elem m i => exact locate_elem h hl

/-- An access goes to a location exactly when it is 32 bits wide and at the location's address (20_memory R51, R54). -/
theorem resolve_eq_ok_iff {c : Config} (h : c.valid = true) {width addr : Nat} {l : Location} :
    resolve c width addr = .ok l ↔ width = 4 ∧ l.InMap c ∧ addr = c.base + l.offset := by
  rw [resolve]
  constructor
  · intro hl
    split at hl
    case isTrue => cases hl
    case isFalse hwidth =>
    split at hl
    case isTrue => cases hl
    case isFalse hwindow =>
    split at hl
    case isTrue => cases hl
    case isFalse =>
    split at hl <;> cases hl
    case h_1 hloc =>
    obtain ⟨hin, hoff⟩ := (locate_eq_some_iff h).mp hloc
    exact ⟨not_not.mp hwidth, hin, by omega⟩
  · rintro ⟨rfl, hin, rfl⟩
    have hsize := Location.offset_lt_windowSize h hin
    have halign := l.offset_mod_four
    rw [if_neg (by decide), if_neg (by omega), if_neg (by omega), Nat.add_sub_cancel_left,
      (locate_eq_some_iff h).mpr ⟨hin, rfl⟩]

end Sys2Proof.Machine

/-! O55: every command writes its memories within their elements, and so does the host at a mapped address. -/

namespace Sys2Proof.Machine

/-! ## One memory replaced -/

/-- The state with one memory replaced. -/
def State.setMem (s : State) (m : MemId) (x : Memory) : State :=
  match m with
  | .iv => { s with iv := x }
  | .sbox => { s with sbox := x }
  | .isbox => { s with isbox := x }
  | .pbox => { s with pbox := x }
  | .ipbox => { s with ipbox := x }
  | .nkey => { s with nkey := x }
  | .rc16 => { s with rc16 := x }
  | .rk => { s with rk := x }
  | .rcon => { s with rcon := x }
  | .mask => { s with mask := x }
  | .kmem => { s with kmem := x }
  | .trace => { s with trace := x }
  | .ibuf => { s with ibuf := x }
  | .obuf => { s with obuf := x }
  | .cnt => { s with cnt := x }

@[simp] theorem State.setMem_cfg (s : State) (m : MemId) (x : Memory) : (s.setMem m x).cfg = s.cfg := by
  cases m <;> rfl

@[simp] theorem State.memOf_setMem_self (s : State) (m : MemId) (x : Memory) : (s.setMem m x).memOf m = x := by
  cases m <;> rfl

theorem State.memOf_setMem_of_ne (s : State) {m m' : MemId} (h : m' ≠ m) (x : Memory) :
    (s.setMem m x).memOf m' = s.memOf m' := by
  cases m <;> cases m' <;> trivial

theorem State.MemForm.setMem {s : State} (h : s.MemForm) {m : MemId} {x : Memory} (hwf : x.wf = true)
    (hwithin : x.within (m.size s.cfg) = true) : (s.setMem m x).MemForm := by
  intro m' hm'
  rw [State.setMem_cfg]
  by_cases heq : m' = m
  · subst heq
    rw [State.memOf_setMem_self]
    exact ⟨hwf, hwithin⟩
  · rw [State.memOf_setMem_of_ne s heq]
    exact h m' hm'

/-- A byte string written within a memory's elements keeps the form. -/
theorem State.MemForm.writeBytes {s : State} (h : s.MemForm) (m : MemId) {i : Nat} {bs : Bytes}
    (hlen : i + bs.length ≤ m.size s.cfg) : (s.setMem m ((s.memOf m).writeBytes i bs)).MemForm :=
  h.setMem (Memory.wf_writeBytes (h.wf m) i bs) (Memory.within_writeBytes (h.within m) hlen)

/-- A byte written to one of a memory's elements keeps the form. -/
theorem State.MemForm.write {s : State} (h : s.MemForm) (m : MemId) {i : Nat} (hi : i < m.size s.cfg) (v : Byte) :
    (s.setMem m ((s.memOf m).write i v)).MemForm :=
  h.setMem (Memory.wf_write (h.wf m) i v) (Memory.within_write (h.within m) hi v)

theorem State.MemForm.flagEvent {s : State} (h : s.MemForm) (e : FlagEvent) : (s.flagEvent e).MemForm := h

/-! ## Host writes -/

/-- A host write replaces one element of a memory the host may write, and the flags. -/
theorem State.writeElem_eq (s : State) {m : MemId} (hm : m.writable = true) (i : Nat) (v : Byte) :
    s.writeElem m i v =
      { s.setMem m ((s.memOf m).write i v) with status := (Location.elem m i).flagsAfterWrite s.status } := by
  cases m
  case isbox | ipbox | nkey | rc16 | rk | rcon | mask | trace | obuf | cnt => cases hm
  all_goals rfl

/-- A host write to a register leaves every memory alone. -/
theorem State.writeReg_memForm {s : State} (h : s.MemForm) (r : Reg) (v : Word) : (s.writeReg r v).MemForm := by
  cases r <;> exact h

theorem State.writeLocation_memForm {s : State} (h : s.MemForm) {l : Location} (hl : l.InMap s.cfg)
    (hw : l.writable = true) (v : Word) : (s.writeLocation l v).MemForm := by
  cases l with
  | reg r => exact State.writeReg_memForm h r v
  | elem m i =>
    rw [State.writeLocation, State.writeElem_eq s hw]
    exact h.write m hl _

/-! ## The operations commands are made of -/

theorem State.putOutput_memForm {s : State} (h : s.MemForm) {bs : Bytes} (hlen : bs.length ≤ s.cfg.bufCap) :
    (s.putOutput bs).MemForm :=
  h.writeBytes .obuf (i := 0) (by simpa [MemId.size] using hlen)

theorem State.putReport_memForm {s : State} (h : s.MemForm) {base : Bytes} (flip : Bytes)
    (hlen : base.length ≤ s.cfg.bufCap) : (s.putReport (compareRuns base flip)).MemForm := by
  have hcnt : (bitCounts base flip).length ≤ s.cfg.bufCap := (bitCounts_length_le base flip).trans hlen
  have hout : (s.putOutput base).MemForm := State.putOutput_memForm h hlen
  exact hout.writeBytes .cnt (i := 0) (bs := (bitCounts base flip).map (BitVec.ofNat 8))
    (by simpa [MemId.size] using hcnt)

/-- A table that passes the NOT_BIJECTION check has an inverse of its length. -/
theorem tableInvert_table_length {t : List Nat} {n : Nat} (h : (tableInvert t n).check = none) :
    (tableInvert t n).table.length = n := by
  obtain ⟨u, hu⟩ := (InvertResult.check_eq_none_iff _).mp h
  rw [hu]
  exact tableInvert_length hu

theorem deriveSubkeys_flatten_length (c : Config) (k : Bytes) (rounds : Nat) (sbox : List Nat) :
    (deriveSubkeys c k rounds sbox).flatten.length = 8 * rounds := by
  have h := flatten_length_of_rows _ (subkeysFrom_mem_length c sbox rounds 0 (normalizeKey k))
  rwa [subkeysFrom_length] at h

theorem deriveRoundConsts8_flatten_length (c : Config) (k : Bytes) (rounds : Nat) :
    (deriveRoundConsts8 c k rounds).flatten.length = 8 * rounds := by
  have h := flatten_length_of_rows _ (constsFrom_mem_length c rounds (constSeed c k))
  rwa [constsFrom_length] at h

/-- What Regen writes to a memory from element 0 on: the empty string where it writes nothing. -/
def State.regenBytes (s : State) : MemId → Bytes
  | .sbox => tableBytes s.keyParams.sbox
  | .isbox => tableBytes s.keyParams.isbox
  | .pbox => tableBytes s.keyParams.pbox
  | .ipbox => tableBytes s.keyParams.ipbox
  | .rk => s.keyParams.rk.flatten
  | .rcon => s.keyParams.rcon.flatten
  | .mask => s.keyParams.mask
  | _ => []

theorem State.regen_memOf (s : State) (m : MemId) :
    s.regen.memOf m = (s.memOf m).writeBytes 0 (s.regenBytes m) := by
  cases m <;> simp [State.memOf, State.regenBytes, Memory.writeBytes]

theorem State.regenBytes_length_le {s : State} (h : s.RoundsOk) (m : MemId) :
    (s.regenBytes m).length ≤ m.size s.cfg := by
  obtain ⟨_, hmax⟩ := h
  have hisbox := tableInvert_table_length (sboxGen_isBijection s.cfg s.keyMaterial).check_eq_none
  have hipbox := tableInvert_table_length (pboxGen_isBijection s.cfg s.keyMaterial).check_eq_none
  cases m <;> simp only [State.regenBytes, MemId.size]
  case sbox => simp [State.keyParams_sbox]
  case isbox => simp [State.keyParams_isbox, hisbox]
  case pbox => simp [State.keyParams_pbox]
  case ipbox => simp [State.keyParams_ipbox, hipbox]
  case rk => rw [State.keyParams_rk, deriveSubkeys_flatten_length]; omega
  case rcon => rw [State.keyParams_rcon, deriveRoundConsts8_flatten_length]; omega
  case mask => simpa [State.keyParams_mask] using hmax
  all_goals exact Nat.zero_le _

theorem State.regen_memForm {s : State} (h : s.MemForm) (hrounds : s.RoundsOk) : s.regen.MemForm := by
  intro m _
  rw [State.regen_memOf, State.regen_cfg]
  have hlen := State.regenBytes_length_le hrounds m
  exact ⟨Memory.wf_writeBytes (h.wf m) 0 _, Memory.within_writeBytes (h.within m) (by omega)⟩

/-! ## Trace records -/

theorem RoundTrace.bytes_length_le {t : RoundTrace} (h0 : t.t0.length ≤ 8) (h1 : t.t1.length ≤ 8)
    (h2 : t.t2.length ≤ 8) (h3 : t.t3.length ≤ 8) (h4 : t.t4.length ≤ 8) (h5 : t.t5.length ≤ 8) :
    t.bytes.length ≤ 48 := by
  simp only [RoundTrace.bytes, List.length_append]
  omega

theorem roundFwdTrace_bytes_length_le {b : Bytes} (hb : b.length ≤ 8) (r : Nat) (p : RoundParams) :
    (roundFwdTrace b r p).bytes.length ≤ 48 := by
  apply RoundTrace.bytes_length_le <;>
    simp [roundFwdTrace, stSub, stAddKey, stTranspose, stAddConst, hb]

theorem roundInvTrace_bytes_length_le {b : Bytes} (hb : b.length ≤ 8) (r : Nat) (p : RoundParams) :
    (roundInvTrace b r p).bytes.length ≤ 48 := by
  apply RoundTrace.bytes_length_le <;>
    simp [roundInvTrace, stAddConst, stInvTranspose, stAddKey, stInvSub, hb]

/-- A record of at most 48 bytes in a round below ROUNDS_MAX stays within TRACE (10_state R36). -/
theorem State.putTrace_memForm {s : State} (h : s.MemForm) {r : Nat} (hr : r < s.cfg.roundsMax) {t : RoundTrace}
    (ht : t.bytes.length ≤ 48) : (s.putTrace r t).MemForm :=
  h.writeBytes .trace (by rw [MemId.size]; omega)

theorem State.traceIf_memForm {s : State} (h : s.MemForm) (t : Bool) {r : Nat} (hr : r < s.cfg.roundsMax)
    {record : RoundTrace} (hrecord : record.bytes.length ≤ 48) : (s.traceIf t r record).MemForm := by
  cases t with
  | false => exact h
  | true => exact State.putTrace_memForm h hr hrecord

theorem State.traceFwd_memForm (p : RoundParams) {n r : Nat} {b : Bytes} {s : State} (h : s.MemForm)
    (hb : b.length ≤ 8) (hr : r + n ≤ s.cfg.roundsMax) : (State.traceFwd p n r b s).MemForm := by
  induction n generalizing r b s with
  | zero => exact h
  | succ n ih =>
    refine ih (State.putTrace_memForm h (by omega) (roundFwdTrace_bytes_length_le hb r p)) ?_ ?_
    · simp
    · rw [State.putTrace_cfg]; omega

theorem State.traceInv_memForm (p : RoundParams) {n : Nat} {b : Bytes} {s : State} (h : s.MemForm)
    (hb : b.length ≤ 8) (hn : n ≤ s.cfg.roundsMax) : (State.traceInv p n b s).MemForm := by
  induction n generalizing b s with
  | zero => exact h
  | succ n ih =>
    refine ih (State.putTrace_memForm h (by omega) (roundInvTrace_bytes_length_le hb n p)) ?_ ?_
    · simp
    · rw [State.putTrace_cfg]; omega

/-! ## Commands and steps -/

/-- The state `e` with the records that a command on `s` writes to TRACE: none when it is not traced (30_encoding R73). -/
def State.traceCommand (s : State) (i : Instr) (e : State) : State :=
  match i with
  | .rndFwd t => e.traceIf t s.ridx.toNat (roundFwdTrace s.inputBlock s.ridx.toNat s.roundParams)
  | .rndInv t => e.traceIf t s.ridx.toNat (roundInvTrace s.inputBlock s.ridx.toNat s.roundParams)
  | .blkEnc t => if t then State.traceFwd s.keyParams s.rounds.toNat 0 s.inputBlock e else e
  | .blkDec t => if t then State.traceInv s.keyParams s.rounds.toNat s.inputBlock e else e
  | _ => e

/-- Every command but SYS.RST is its checks and its effect, and the records it writes to TRACE. -/
theorem exec_eq_runCommand_traceCommand {i : Instr} (hi : i ≠ .sysRst) (s : State) :
    exec i s = runCommand s (commandChecks s i) (s.traceCommand i (commandEffect s i)) := by
  cases i
  case sysRst => exact absurd rfl hi
  all_goals rfl

theorem commandEffect_memForm {s : State} (hvalid : s.cfg.valid = true) (h : s.MemForm) {i : Instr}
    (hpass : ∀ c ∈ commandChecks s i, c = none) : (commandEffect s i).MemForm := by
  obtain ⟨hlow, _⟩ := Config.bufCap_bounds hvalid
  cases i
  case sboxGen => exact (h.writeBytes .sbox (by simp [MemId.size])).flagEvent .sboxGen
  case pboxGen => exact (h.writeBytes .pbox (by simp [MemId.size])).flagEvent .pboxGen
  case sboxInv =>
    have hlen := tableInvert_table_length (hpass _ (List.mem_singleton_self _))
    exact (h.writeBytes .isbox (by simp [MemId.size, hlen])).flagEvent .sboxInv
  case pboxInv =>
    have hlen := tableInvert_table_length (hpass _ (List.mem_singleton_self _))
    exact (h.writeBytes .ipbox (by simp [MemId.size, hlen])).flagEvent .pboxInv
  case ksNorm => exact h.writeBytes .nkey (by simp [MemId.size])
  case ksRc16 => exact h.writeBytes .rc16 (by simp [MemId.size])
  case ksSubk =>
    obtain ⟨_, _, hmax⟩ := keyOk_roundsOk_of_checks hpass
    exact (h.writeBytes .rk (by rw [deriveSubkeys_flatten_length, MemId.size]; omega)).flagEvent .ksSubk
  case ksConst =>
    obtain ⟨_, _, hmax⟩ := keyOk_roundsOk_of_checks hpass
    have hrcon := h.writeBytes .rcon (i := 0) (bs := (deriveRoundConsts8 s.cfg s.keyMaterial s.rounds.toNat).flatten)
      (by rw [deriveRoundConsts8_flatten_length, MemId.size]; omega)
    exact (hrcon.writeBytes .mask (by simpa [MemId.size] using hmax)).flagEvent .ksConst
  case sboxFwd | sboxBwd =>
    have hilen := s.checkInputLen_eq_none_iff.mp (hpass _ (by simp [commandChecks]))
    exact State.putOutput_memForm h (by simpa using hilen)
  case pboxFwd | pboxBwd | rndInv => exact State.putOutput_memForm h (by simpa using hlow)
  case rndFwd => exact State.putOutput_memForm h (by rw [roundFwd_length]; omega)
  case blkEnc =>
    have hregen := State.regen_memForm h (keyOk_roundsOk_of_checks hpass).2
    exact State.putOutput_memForm hregen (by rwa [encBlock_length _ _ _ s.inputBlock_length])
  case blkDec =>
    have hregen := State.regen_memForm h (keyOk_roundsOk_of_checks hpass).2
    exact State.putOutput_memForm hregen (by rwa [decBlock_length _ _ _ s.inputBlock_length])
  case cbcEnc =>
    have hregen := State.regen_memForm h (keyOk_roundsOk_of_checks hpass).2
    have hilen := s.checkPadLen_eq_none_iff.mp (hpass _ (by simp [commandChecks]))
    exact State.putOutput_memForm hregen (by rw [State.cbcCiphertext_length, State.regen_cfg]; omega)
  case cbcDec =>
    have hregen := State.regen_memForm h (keyOk_roundsOk_of_checks hpass).2
    have hilen := s.checkInputLen_eq_none_iff.mp (hpass _ (by simp [commandChecks]))
    have hformat := s.checkFormat_eq_none_iff.mp (hpass _ (by simp [commandChecks]))
    exact State.putOutput_memForm hregen ((State.cbcPlaintext_length_le hformat.2).trans hilen)
  case avalPt | avalKey =>
    have hregen := State.regen_memForm h (keyOk_roundsOk_of_checks hpass).2
    have hilen := s.checkPadLen_eq_none_iff.mp (hpass _ (by simp [commandChecks]))
    refine State.putReport_memForm hregen _ ?_
    rw [cbcEnc_length _ _ _ _ s.ivBytes_length, State.inputBytes_length, State.regen_cfg]
    omega
  case sysNop | sysRst => exact h

/-- A traced command's records stay within TRACE: its checks bound the rounds they are of. -/
theorem State.traceCommand_memForm {s e : State} (hcfg : e.cfg = s.cfg) (h : e.MemForm) {i : Instr}
    (hpass : ∀ c ∈ commandChecks s i, c = none) : (s.traceCommand i e).MemForm := by
  have hblock : s.inputBlock.length ≤ 8 := s.inputBlock_length.le
  cases i
  case rndFwd t | rndInv t =>
    have hrounds := s.checkRounds_eq_none_iff.mp (hpass _ (by simp [commandChecks]))
    have hridx := s.checkRidx_eq_none_iff.mp (hpass _ (by simp [commandChecks]))
    have hr : s.ridx.toNat < e.cfg.roundsMax := hcfg ▸ hridx.trans_le hrounds.2
    apply State.traceIf_memForm h t hr
    simp only [roundFwdTrace_bytes_length_le hblock, roundInvTrace_bytes_length_le hblock]
  case blkEnc t =>
    obtain ⟨_, _, hmax⟩ := keyOk_roundsOk_of_checks hpass
    cases t with
    | false => exact h
    | true => exact State.traceFwd_memForm _ h hblock (by rw [hcfg]; omega)
  case blkDec t =>
    obtain ⟨_, _, hmax⟩ := keyOk_roundsOk_of_checks hpass
    cases t with
    | false => exact h
    | true => exact State.traceInv_memForm _ h hblock (by rwa [hcfg])
  all_goals exact h

theorem exec_memForm {i : Instr} {s t : State} (hvalid : s.cfg.valid = true) (h : s.MemForm)
    (hexec : exec i s = .next t) : t.MemForm := by
  by_cases hi : i = .sysRst
  · subst hi
    cases hexec
    exact State.resetOf_memForm _ _
  · rw [exec_eq_runCommand_traceCommand hi] at hexec
    rcases runCommand_inv hexec with ⟨_, rfl⟩ | ⟨_, f, _, rfl⟩ | ⟨_, hpass, rfl⟩
    · exact h
    · exact h
    · have hpass := (firstFailure_eq_none_iff _).mp hpass
      exact State.traceCommand_memForm (commandEffect_frame s i).cfg (commandEffect_memForm hvalid h hpass) hpass

theorem issue_memForm {w : Word} {s t : State} (hvalid : s.cfg.valid = true) (h : s.MemForm)
    (hissue : issue w s = .next t) : t.MemForm := by
  rw [issue] at hissue
  split at hissue
  · exact exec_memForm hvalid h hissue
  · cases hissue
    rw [State.illegalCommand]
    split <;> exact h

theorem step_cfg {s t : State} (h : step s = .next t) : t.cfg = s.cfg := by
  cases step_kind h with
  | quiet port => rfl
  | reset rest => rfl
  | hostWrite rest l v => exact (State.writeLocation_frame (s.accept rest) l v).cfg
  | fault rest code info => rfl
  | command rest i records => exact (commandEffect_frame (s.accept rest) i).cfg

/-- Settles O55, by what a step can have done: the location of a host write is in the map, and every command keeps the
form. -/
theorem everyStepKeepsMemoryForm : Obligations.EveryStepKeepsMemoryForm := by
  intro s t hvalid h hstep
  refine ⟨?_, step_cfg hstep⟩
  rcases step_inv hstep with ⟨_, rfl⟩ | ⟨_, _, _, _, _, _, rfl⟩ | ⟨_, _, rfl⟩ |
    ⟨_, _, v, rest, l, _, hl, hw, _, rfl⟩ | ⟨_, _, w, rest, _, _, hissue⟩
  · exact h
  · exact h
  · exact State.resetOf_memForm _ _
  · obtain ⟨_, hin, _⟩ := (resolve_eq_ok_iff hvalid).mp hl
    exact State.writeLocation_memForm (s := s.accept rest) h hin hw v
  · exact issue_memForm (s := s.accept rest) hvalid h hissue

end Sys2Proof.Machine

/-! O54: what a step answers to a host access at a location, and which accesses it refuses. -/

namespace Sys2Proof.Machine

/-! ## Steps on a host access -/

section Access

variable {s : State} {width addr : Nat} {v : Word} {rest : List PortEvent} {l : Location}

/-- A read of a location that the port takes is answered, and changes nothing else (20_memory R52). -/
theorem step_read (h : s.port.pending = .read width addr :: rest) (hl : resolve s.cfg width addr = .ok l)
    (hfree : s.status.busy = false ∨ l = .reg .status) :
    step s = .next { s with port := { pending := rest, response := some (s.readLocation l) } } := by
  have hport : (s.accept rest).portFree l = true := by rcases hfree with h | h <;> simp [State.portFree, h]
  simp only [step, State.nextAction, h, State.portEvent, State.hostRead, State.accept_cfg, hl, hport, if_pos]
  rfl

/-- A write to a writable location but CMD is performed (20_memory R53). -/
theorem step_write (h : s.port.pending = .write width addr v :: rest) (hl : resolve s.cfg width addr = .ok l)
    (hbusy : s.status.busy = false) (hw : l.writable = true) (hne : l ≠ .reg .cmd) :
    step s = .next ((s.accept rest).writeLocation l v) := by
  simp [step, State.nextAction, h, State.portEvent, State.hostWrite, hl, hbusy, hw, hne]

/-- A write to CMD issues the command word (10_state R23). -/
theorem step_write_cmd (h : s.port.pending = .write width addr v :: rest)
    (hl : resolve s.cfg width addr = .ok (.reg .cmd)) (hbusy : s.status.busy = false) :
    step s = issue v (s.accept rest) := by
  simp [step, State.nextAction, h, State.portEvent, State.hostWrite, hl, hbusy, Location.writable, Reg.writable]

/-- A read is refused when it goes to no location that the port takes (20_memory R55). -/
theorem step_read_refused (h : s.port.pending = .read width addr :: rest)
    (hno : ∀ l, resolve s.cfg width addr = .ok l → s.status.busy = true ∧ l ≠ .reg .status) :
    ∃ cause, step s = .refused (.busError cause) := by
  simp only [step, State.nextAction, h, State.portEvent]
  rcases State.hostRead_cases (s.accept rest) width addr with ⟨e, he⟩ | ⟨l, hl, hfree, _⟩
  · exact ⟨e, by rw [he]⟩
  · obtain ⟨hbusy, hne⟩ := hno l hl
    simp [State.portFree, hbusy, hne] at hfree

/-- A write is refused when it goes to no location that the port takes and the host may write (20_memory R55). -/
theorem step_write_refused (h : s.port.pending = .write width addr v :: rest)
    (hno : ∀ l, resolve s.cfg width addr = .ok l → s.status.busy = true ∨ l.writable = false) :
    ∃ cause, step s = .refused (.busError cause) := by
  simp only [step, State.nextAction, h, State.portEvent]
  rcases State.hostWrite_cases (s.accept rest) width addr v with ⟨e, he⟩ | ⟨l, hl, hbusy, hw, _⟩
  · exact ⟨e, by rw [he]⟩
  · rcases hno l hl with h | h
    · exact absurd (h.symm.trans hbusy) (by decide)
    · exact absurd (h.symm.trans hw) (by decide)

end Access

/-! ## The address map in numbers -/

/-- `addressMap` writes out the offsets, sizes and access columns of the locations. -/
theorem addressMap_eq (c : Config) :
    addressMap c = (Reg.all.map fun r => ⟨r.offset, 1, r.writable⟩) ++
      MemId.all.map fun m => ⟨m.offset, m.size c, m.writable⟩ := rfl

/-- The rows of R51 at an address, as locations. -/
theorem exists_row_at_iff (c : Config) (addr : Nat) (P : Bool → Prop) :
    (∃ row ∈ addressMap c, P row.writable ∧ row.At c addr) ↔
      ∃ l : Location, l.InMap c ∧ P l.writable ∧ addr = c.base + l.offset := by
  rw [addressMap_eq]
  constructor
  · rintro ⟨row, hrow, hP, i, hi, rfl⟩
    rcases List.mem_append.mp hrow with hrow | hrow
    · obtain ⟨r, _, rfl⟩ := List.mem_map.mp hrow
      obtain rfl : i = 0 := Nat.lt_one_iff.mp hi
      exact ⟨.reg r, trivial, hP, rfl⟩
    · obtain ⟨m, _, rfl⟩ := List.mem_map.mp hrow
      exact ⟨.elem m i, hi, hP, Nat.add_assoc ..⟩
  · rintro ⟨l, hl, hP, rfl⟩
    cases l with
    | reg r => exact ⟨_, List.mem_append_left _ (List.mem_map_of_mem r.mem_all), hP, 0, Nat.one_pos, rfl⟩
    | elem m i =>
      exact ⟨_, List.mem_append_right _ (List.mem_map_of_mem m.mem_all), hP, i, hl, (Nat.add_assoc ..).symm⟩

theorem mappedAddress_iff (c : Config) (addr : Nat) :
    MappedAddress c addr ↔ ∃ l : Location, l.InMap c ∧ addr = c.base + l.offset := by
  simpa using exists_row_at_iff c addr fun _ => True

/-- The accesses that go to some location are those of 32 bits, aligned, at a mapped address (20_memory R54, R55). -/
theorem exists_resolve_iff {c : Config} (h : c.valid = true) (width addr : Nat) :
    (∃ l, resolve c width addr = .ok l) ↔ width = 4 ∧ addr % 4 = 0 ∧ MappedAddress c addr := by
  simp only [resolve_eq_ok_iff h, mappedAddress_iff]
  constructor
  · rintro ⟨l, hwidth, hin, rfl⟩
    have hbase := Config.base_mod_four h
    have hoff := l.offset_mod_four
    exact ⟨hwidth, by omega, l, hin, rfl⟩
  · rintro ⟨hwidth, _, l, hin, haddr⟩
    exact ⟨l, hwidth, hin, haddr⟩

section Resolved

variable {c : Config} {width addr : Nat} {l : Location}

/-- A location's address is no other location's. -/
theorem eq_of_resolve (h : c.valid = true) (hl : resolve c width addr = .ok l) {l' : Location} (hin : l'.InMap c)
    (haddr : addr = c.base + l'.offset) : l' = l := by
  obtain ⟨hwidth, _⟩ := (resolve_eq_ok_iff h).mp hl
  have hl' := (resolve_eq_ok_iff h).mpr ⟨hwidth, hin, haddr⟩
  exact Except.ok.inj (hl'.symm.trans hl)

/-- An access that goes to a location is at a read-only address exactly when the location is read-only. -/
theorem readOnlyAddress_iff (h : c.valid = true) (hl : resolve c width addr = .ok l) :
    ReadOnlyAddress c addr ↔ l.writable = false := by
  rw [ReadOnlyAddress, exists_row_at_iff c addr (· = false)]
  constructor
  · rintro ⟨l', hin, hw, haddr⟩
    rwa [← eq_of_resolve h hl hin haddr]
  · intro hw
    obtain ⟨_, hin, haddr⟩ := (resolve_eq_ok_iff h).mp hl
    exact ⟨l, hin, hw, haddr⟩

/-- An access that goes to a location goes to STATUS exactly when it is at STATUS's address. -/
theorem eq_status_iff (h : c.valid = true) (hl : resolve c width addr = .ok l) :
    l = .reg .status ↔ addr = c.base + 4 := by
  constructor
  · rintro rfl
    exact ((resolve_eq_ok_iff h).mp hl).2.2
  · intro haddr
    exact (eq_of_resolve h hl (l' := .reg .status) trivial haddr).symm

end Resolved

/-! ## Bus errors -/

/-- An access goes to no location, or is as `Q` says, exactly when every location it goes to is as `P` says, when `P` and
`Q` agree on those. -/
theorem badAccess_or_iff_forall {c : Config} (h : c.valid = true) {width addr : Nat} {P : Location → Prop} {Q : Prop}
    (hPQ : ∀ l, resolve c width addr = .ok l → (P l ↔ Q)) :
    (width ≠ 4 ∨ addr % 4 ≠ 0 ∨ ¬ MappedAddress c addr ∨ Q) ↔ ∀ l, resolve c width addr = .ok l → P l := by
  have hgood : (width ≠ 4 ∨ addr % 4 ≠ 0 ∨ ¬ MappedAddress c addr ∨ Q) ↔
      ((∃ l, resolve c width addr = .ok l) → Q) := by
    rw [exists_resolve_iff h]
    simp only [imp_iff_not_or, not_and_or, or_assoc, ne_eq]
  rw [hgood, forall_exists_index]
  exact forall₂_congr fun l hl => (hPQ l hl).symm

/-- A read is a bus error exactly when it goes to no location that the port takes. -/
theorem State.busErrorAccess_read_iff {s : State} (h : s.cfg.valid = true) (width addr : Nat) :
    s.BusErrorAccess (.read width addr) ↔
      ∀ l, resolve s.cfg width addr = .ok l → s.status.busy = true ∧ l ≠ .reg .status :=
  badAccess_or_iff_forall h fun _ hl => and_congr_right fun _ => not_congr (eq_status_iff h hl)

/-- A write is a bus error exactly when it goes to no location that the port takes and the host may write. -/
theorem State.busErrorAccess_write_iff {s : State} (h : s.cfg.valid = true) (width addr : Nat) (v : Word) :
    s.BusErrorAccess (.write width addr v) ↔
      ∀ l, resolve s.cfg width addr = .ok l → s.status.busy = true ∨ l.writable = false :=
  badAccess_or_iff_forall h fun _ hl => or_congr_right (readOnlyAddress_iff h hl).symm

/-- Settles O54, by the event: an access that goes to no location the port takes is refused, every other is performed,
and a hardware reset is never refused. -/
theorem busErrorsAreExactlyTheRefusals : Obligations.BusErrorsAreExactlyTheRefusals := by
  intro s e rest hvalid hpending
  cases e with
  | read width addr =>
    rw [State.busErrorAccess_read_iff hvalid]
    refine ⟨step_read_refused hpending, fun hok => ?_⟩
    push Not at hok
    obtain ⟨l, hl, hfree⟩ := hok
    refine ⟨_, step_read hpending hl ?_⟩
    cases hbusy : s.status.busy with
    | false => exact .inl rfl
    | true => exact .inr (hfree hbusy)
  | write width addr v =>
    rw [State.busErrorAccess_write_iff hvalid]
    refine ⟨step_write_refused hpending, fun hok => ?_⟩
    push Not at hok
    obtain ⟨l, hl, hbusy, hw⟩ := hok
    rw [ne_eq, Bool.not_eq_true] at hbusy
    rw [ne_eq, Bool.not_eq_false] at hw
    by_cases hcmd : l = .reg .cmd
    · rw [step_write_cmd hpending (hcmd ▸ hl) hbusy]
      exact issue_next v _
    · exact ⟨_, step_write hpending hl hbusy hw hcmd⟩
  | reset => exact ⟨False.elim, fun _ => ⟨_, step_reset hpending⟩⟩

end Sys2Proof.Machine

/-! O52 and O53: what a host read answers, STATUS bit by bit, and what a host write leaves. -/

namespace Sys2Proof.Machine

/-! ## Reads -/

theorem flagBit_getElem (b : Bool) (i : Nat) {j : Nat} (hj : j < 32) : (flagBit b i)[j] = (b && decide (j = i)) := by
  cases b with
  | false => simp [flagBit]
  | true =>
    simp only [flagBit, if_true, BitVec.getElem_shiftLeft, BitVec.getElem_one]
    grind

/-- STATUS holds the flags at bits 0 to 7 (10_state R24). -/
theorem Status.word_getLsbD (st : Status) :
    st.word.getLsbD 0 = st.busy ∧ st.word.getLsbD 1 = st.done ∧ st.word.getLsbD 2 = st.sv ∧
      st.word.getLsbD 3 = st.isv ∧ st.word.getLsbD 4 = st.pv ∧ st.word.getLsbD 5 = st.ipv ∧
      st.word.getLsbD 6 = st.kv ∧ st.word.getLsbD 7 = st.cv := by
  simp [Status.word, flagBit_getElem]

theorem flagBit_ushiftRight : ∀ (b : Bool), ∀ i < 8, flagBit b i >>> 8 = 0#32 := by decide

theorem FaultCode.toByte_ushiftRight (e : FaultCode) :
    (e.toByte.zeroExtend 32 <<< 8) >>> 8 = e.toByte.zeroExtend 32 := by
  cases e <;> rfl

/-- STATUS holds ERR above bit 7, and nothing above ERR (10_state R24). -/
theorem Status.word_toNat_div (st : Status) : st.word.toNat / 256 = st.err.toByte.toNat := by
  have hshift : st.word >>> 8 = st.err.toByte.zeroExtend 32 := by
    simp only [Status.word, BitVec.ushiftRight_or_distrib, FaultCode.toByte_ushiftRight]
    simp [flagBit_ushiftRight]
  have h := congrArg BitVec.toNat hshift
  rwa [BitVec.toNat_ushiftRight, Nat.shiftRight_eq_div_pow, BitVec.toNat_setWidth_of_le (by decide)] at h

/-- Settles O52: R51's lists are those of the registers and memories by name, and a read at a location answers it. -/
theorem hostReadReturnsTheElement : Obligations.HostReadReturnsTheElement := by
  intro s rest hvalid answers
  have hread {l : Location} (hin : l.InMap s.cfg) {addr : Nat} (haddr : addr = s.cfg.base + l.offset)
      (hpending : s.port.pending = .read 4 addr :: rest) (hfree : s.status.busy = false ∨ l = .reg .status) :
      step s = .next (answers (s.readLocation l)) :=
    step_read hpending ((resolve_eq_ok_iff hvalid).mpr ⟨rfl, hin, haddr⟩) hfree
  refine ⟨?registers, ?status, ?memories⟩
  case registers =>
    intro offset w hmem hpending hbusy
    have hlist : (offset, w) ∈ (Reg.all.erase .status).map fun r => (r.offset, s.readReg r) := hmem
    obtain ⟨r, _, heq⟩ := List.mem_map.mp hlist
    cases heq
    exact hread (l := .reg r) trivial rfl hpending (.inl hbusy)
  case status =>
    intro hpending
    obtain ⟨hbusy, hdone, hsv, hisv, hpv, hipv, hkv, hcv⟩ := s.status.word_getLsbD
    refine ⟨s.status.word, hread (l := .reg .status) trivial rfl hpending (.inr rfl),
      hbusy, hdone, hsv, hisv, hpv, hipv, hkv, hcv, ?_⟩
    rw [Status.word_toNat_div]
    cases s.status.err <;> rfl
  case memories =>
    intro offset size m hmem i hi hpending hbusy
    have hlist : (offset, size, m) ∈ MemId.all.map fun m => (m.offset, m.size s.cfg, s.memOf m) := hmem
    obtain ⟨m, _, heq⟩ := List.mem_map.mp hlist
    cases heq
    rw [BitVec.ofNat_toNat]
    exact hread (l := .elem m i) hi (Nat.add_assoc ..) hpending (.inl hbusy)

/-! ## Writes -/

@[simp] theorem State.setMem_port (s : State) (m : MemId) (x : Memory) : (s.setMem m x).port = s.port := by
  cases m <;> rfl

@[simp] theorem State.setMem_readReg (s : State) (m : MemId) (x : Memory) (r : Reg) :
    (s.setMem m x).readReg r = s.readReg r := by
  cases m <;> rfl

/-- The flags matter to STATUS alone. -/
theorem State.readReg_with_status (s : State) (st : Status) {r : Reg} (h : r ≠ .status) :
    { s with status := st }.readReg r = s.readReg r := by
  cases r
  case status => exact absurd rfl h
  all_goals rfl

/-- The registers the host may write that hold what is written (20_memory R51; CMD stores nothing, 10_state R23). -/
def Reg.stored : List Reg := [.rounds, .keylen, .ilen, .ridx, .bitidx]

theorem Reg.writable_of_mem_stored {r : Reg} (h : r ∈ Reg.stored) : r.writable = true ∧ r ≠ .cmd := by
  revert r
  decide

/-- A host write to a register stores the word, clears the flags 10_state R28 names, and leaves the rest (R25). -/
theorem State.writeReg_stored (s : State) {r : Reg} (h : r ∈ Reg.stored) (v : Word) :
    (s.writeReg r v).readReg r = v ∧ (s.writeReg r v).status = (Location.reg r).flagsAfterWrite s.status ∧
      (s.writeReg r v).port = s.port ∧ Unchanged [r, .status] noElement s (s.writeReg r v) := by
  cases r
  case cmd | status | olen | finfo | avDiff | avTotal | avPct => exact absurd h (by decide)
  all_goals
    refine ⟨rfl, rfl, rfl, rfl, rfl, fun r' hr' => ?_, fun m i _ => by cases m <;> rfl⟩
    cases r'
    all_goals trivial

/-- Every element of every memory after a host write to an element. -/
theorem State.writeElem_read {s : State} (h : s.MemForm) {m : MemId} (hm : m.writable = true) (i : Nat) (b : Byte)
    (m' : MemId) (j : Nat) :
    ((s.writeElem m i b).memOf m').read j = if m' = m ∧ j = i then b else (s.memOf m').read j := by
  rw [State.writeElem_eq s hm]
  change ((s.setMem m _).memOf m').read j = _
  by_cases heq : m' = m
  · subst heq
    rw [State.memOf_setMem_self, Memory.read_write (h.wf m')]
    simp only [true_and]
  · rw [State.memOf_setMem_of_ne s heq, if_neg fun hmj => heq hmj.1]

/-- A host write to an element stores the byte, clears the flags 10_state R28 names, and leaves the rest. -/
theorem State.writeElem_writable {s : State} (h : s.MemForm) {m : MemId} (hm : m.writable = true) (i : Nat) (b : Byte) :
    ((s.writeElem m i b).memOf m).read i = b ∧
      (s.writeElem m i b).status = (Location.elem m i).flagsAfterWrite s.status ∧
      (s.writeElem m i b).port = s.port ∧ Unchanged [.status] (elementsOf m i 1) s (s.writeElem m i b) := by
  have hcfg : (s.writeElem m i b).cfg = s.cfg := by rw [State.writeElem_eq s hm]; exact s.setMem_cfg m _
  have hport : (s.writeElem m i b).port = s.port := by rw [State.writeElem_eq s hm]; exact s.setMem_port m _
  refine ⟨by simp [State.writeElem_read h hm], by rw [State.writeElem_eq s hm], hport, hcfg, hport, fun r hr => ?_,
    fun m' j houtside => ?_⟩
  · rw [State.writeElem_eq s hm, State.readReg_with_status _ _ (by simpa using hr), State.setMem_readReg]
  · rw [State.writeElem_read h hm, if_neg]
    rintro ⟨rfl, rfl⟩
    exact houtside ⟨rfl, Nat.le_refl _, Nat.lt_succ_self _⟩

/-- Settles O53: R51's lists are those of the registers that hold a word and of the memories the host may write. -/
theorem hostWriteStoresTheElement : Obligations.HostWriteStoresTheElement := by
  intro s v rest hvalid hform hbusy
  have hwrite {l : Location} (hin : l.InMap s.cfg) {addr : Nat} (haddr : addr = s.cfg.base + l.offset)
      (hpending : s.port.pending = .write 4 addr v :: rest) (hw : l.writable = true) (hne : l ≠ .reg .cmd) :
      step s = .next ((s.accept rest).writeLocation l v) :=
    step_write hpending ((resolve_eq_ok_iff hvalid).mpr ⟨rfl, hin, haddr⟩) hbusy hw hne
  refine ⟨?registers, ?memories⟩
  case registers =>
    intro offset r field hmem hpending
    have hlist : (offset, r, field) ∈ Reg.stored.map fun r => (r.offset, r, fun s => s.readReg r) := hmem
    obtain ⟨r, hr, heq⟩ := List.mem_map.mp hlist
    cases heq
    obtain ⟨hw, hne⟩ := Reg.writable_of_mem_stored hr
    exact ⟨_, hwrite (l := .reg r) trivial rfl hpending hw (by simpa using hne), (s.accept rest).writeReg_stored hr v⟩
  case memories =>
    intro offset size m field hmem i hi hpending
    have hlist : (offset, size, m, field) ∈ (MemId.all.filter MemId.writable).map fun m =>
        (m.offset, m.size s.cfg, m, fun s => s.memOf m) := hmem
    obtain ⟨m, hm, heq⟩ := List.mem_map.mp hlist
    cases heq
    have hm : m.writable = true := List.of_mem_filter hm
    obtain ⟨hread, hrest⟩ := State.writeElem_writable (s := s.accept rest) hform hm i (v.extractLsb' 0 8)
    refine ⟨_, hwrite (l := .elem m i) hi (Nat.add_assoc ..) hpending hm nofun, ?_, hrest⟩
    simp [State.writeLocation, hread]

end Sys2Proof.Machine

/-! O1 to O4: a command word is its three fields, the decoder and the encoder are inverse on the fields of the legal
words, and a step issues the word written to CMD. -/

namespace Sys2Proof

/-! ## The fields of a command word in numbers (30_encoding R70) -/

theorem opField_eq (w : Word) : opField w = BitVec.ofNat 8 w.toNat :=
  BitVec.eq_of_toNat_eq (by simp [opField])

theorem traceField_eq_true_iff (w : Word) : traceField w = true ↔ w.toNat / 256 % 2 = 1 := by
  rw [traceField, ← BitVec.testBit_toNat, Nat.testBit_eq_decide_div_mod_eq, decide_eq_true_iff]

theorem reservedField_eq_zero_iff (w : Word) : reservedField w = 0#23 ↔ w.toNat / 512 = 0 := by
  have hw := w.isLt
  simp only [reservedField, BitVec.toNat_eq, BitVec.extractLsb'_toNat, Nat.shiftRight_eq_div_pow, BitVec.toNat_ofNat]
  omega

theorem reservedClear_iff (w : Word) : reservedClear w = true ↔ reservedField w = 0#23 := by
  rw [reservedField_eq_zero_iff]
  simp [reservedClear, BitVec.toNat_eq, Nat.shiftRight_eq_div_pow]

/-- A word without reserved bits is fixed by its OP and T fields. -/
theorem word_eq_of_fields {v w : Word} (hv : reservedField v = 0#23) (hw : reservedField w = 0#23)
    (hop : opField v = opField w) (ht : traceField v = traceField w) : v = w := by
  have ht := (traceField_eq_true_iff v).symm.trans (ht ▸ traceField_eq_true_iff w)
  rw [reservedField_eq_zero_iff] at hv hw
  simp only [opField_eq, BitVec.toNat_eq, BitVec.toNat_ofNat] at hop
  exact BitVec.eq_of_toNat_eq (by omega)

/-! ## The encoder -/

/-- What `Laws/PerInstr.lean` says of each command, of them all. -/
theorem encode_legal (i : Instr) : Laws.EncodeLegal.Statement i := by
  cases i with
  | sysNop => exact Laws.EncodeLegal.sysNop
  | sysRst => exact Laws.EncodeLegal.sysRst
  | sboxGen => exact Laws.EncodeLegal.sboxGen
  | sboxInv => exact Laws.EncodeLegal.sboxInv
  | sboxFwd => exact Laws.EncodeLegal.sboxFwd
  | sboxBwd => exact Laws.EncodeLegal.sboxBwd
  | pboxGen => exact Laws.EncodeLegal.pboxGen
  | pboxInv => exact Laws.EncodeLegal.pboxInv
  | pboxFwd => exact Laws.EncodeLegal.pboxFwd
  | pboxBwd => exact Laws.EncodeLegal.pboxBwd
  | ksNorm => exact Laws.EncodeLegal.ksNorm
  | ksRc16 => exact Laws.EncodeLegal.ksRc16
  | ksSubk => exact Laws.EncodeLegal.ksSubk
  | ksConst => exact Laws.EncodeLegal.ksConst
  | rndFwd t => exact Laws.EncodeLegal.rndFwd t
  | rndInv t => exact Laws.EncodeLegal.rndInv t
  | blkEnc t => exact Laws.EncodeLegal.blkEnc t
  | blkDec t => exact Laws.EncodeLegal.blkDec t
  | cbcEnc => exact Laws.EncodeLegal.cbcEnc
  | cbcDec => exact Laws.EncodeLegal.cbcDec
  | avalPt => exact Laws.EncodeLegal.avalPt
  | avalKey => exact Laws.EncodeLegal.avalKey

theorem legalWord_iff (w : Word) :
    legalWord w = true ↔ reservedField w = 0#23 ∧ opcodeKnown (opField w) = true ∧
      traceAllowed (opField w) (traceField w) = true := by
  rw [← reservedClear_iff, legalWord, Bool.and_eq_true, Bool.and_eq_true, and_assoc]
  rfl

theorem Instr.wellFormed_iff (i : Instr) :
    i.wellFormed = true ↔ opcodeKnown i.opcode = true ∧ traceAllowed i.opcode i.traceBit = true := by
  rw [Instr.wellFormed, Bool.and_eq_true]

theorem Instr.wellFormed_eq_true (i : Instr) : i.wellFormed = true := (encode_legal i).1

/-- The fields of the word the encoder writes are the command's. -/
theorem encode_fields (i : Instr) :
    reservedField (encode i) = 0#23 ∧ opField (encode i) = i.opcode ∧ traceField (encode i) = i.traceBit := by
  obtain ⟨_, hlegal, hop, ht⟩ := encode_legal i
  exact ⟨((legalWord_iff _).mp hlegal).1, hop, ht⟩

/-! ## The decoder -/

theorem untraced_eq_ok_iff {t : Bool} {i j : Instr} : untraced t i = .ok j ↔ t = false ∧ i = j := by
  cases t <;> simp [untraced]

/-- The decoder reads exactly the command that has the opcode and the T bit. Of its arms the last is the unknown
opcode and 15 to 18 are the traceable commands. -/
theorem decodeFields_eq_ok_iff {op : Byte} {t : Bool} {i : Instr} :
    decodeFields op t = .ok i ↔ i.opcode = op ∧ i.traceBit = t := by
  constructor
  · intro h
    unfold decodeFields at h
    split at h
    case h_23 => cases h
    case h_15 hop | h_16 hop | h_17 hop | h_18 hop =>
      cases h
      exact ⟨BitVec.eq_of_toNat_eq hop.symm, rfl⟩
    all_goals
      rename_i hop
      obtain ⟨rfl, rfl⟩ := untraced_eq_ok_iff.mp h
      exact ⟨BitVec.eq_of_toNat_eq hop.symm, rfl⟩
  · rintro ⟨rfl, rfl⟩
    cases i <;> rfl

theorem decode_eq_ok_iff {w : Word} {i : Instr} :
    decode w = .ok i ↔ reservedField w = 0#23 ∧ opField w = i.opcode ∧ traceField w = i.traceBit := by
  by_cases hres : reservedField w = 0#23
  · rw [decode, if_pos (beq_iff_eq.mpr hres), decodeFields_eq_ok_iff]
    exact ⟨fun ⟨hop, ht⟩ => ⟨hres, hop.symm, ht.symm⟩, fun ⟨_, hop, ht⟩ => ⟨hop.symm, ht.symm⟩⟩
  · rw [decode, if_neg (mt beq_iff_eq.mp hres)]
    exact ⟨nofun, fun ⟨h, _⟩ => absurd h hres⟩

theorem decode_encode (i : Instr) : decode (encode i) = .ok i := decode_eq_ok_iff.mpr (encode_fields i)

theorem encode_of_decode {w : Word} {i : Instr} (h : decode w = .ok i) : encode i = w := by
  obtain ⟨hres, hop, ht⟩ := decode_eq_ok_iff.mp h
  obtain ⟨hres', hop', ht'⟩ := encode_fields i
  exact word_eq_of_fields hres' hres (hop'.trans hop.symm) (ht'.trans ht.symm)

/-! ## The legal words -/

/-- The commands whose T column in R72 says yes, with T = 1. -/
def Instr.traced : List Instr := [.rndFwd true, .rndInv true, .blkEnc true, .blkDec true]

theorem Instr.mem_all_or_mem_traced (i : Instr) : i ∈ Instr.all ∨ i ∈ Instr.traced := by
  cases i
  case rndFwd t | rndInv t | blkEnc t | blkDec t => cases t <;> decide
  all_goals decide

/-- Every OP value of R72 with a T bit it admits (R73) is that of a command: of `Instr.all` with T = 0, of
`Instr.traced` with T = 1. -/
theorem exists_instr_of_traceAllowed {op : Byte} {t : Bool} (hop : opcodeKnown op = true)
    (ht : traceAllowed op t = true) : ∃ i : Instr, i.opcode = op ∧ i.traceBit = t := by
  cases t with
  | false =>
    have hop : op ∈ Instr.all.map Instr.opcode := List.contains_iff_mem.mp hop
    obtain ⟨i, hi, rfl⟩ := List.mem_map.mp hop
    have huntraced : ∀ i ∈ Instr.all, i.traceBit = false := by decide
    exact ⟨i, rfl, huntraced i hi⟩
  | true =>
    have hop : op ∈ Instr.traced.map Instr.opcode := List.contains_iff_mem.mp ht
    obtain ⟨i, hi, rfl⟩ := List.mem_map.mp hop
    have htraced : ∀ i ∈ Instr.traced, i.traceBit = true := by decide
    exact ⟨i, rfl, htraced i hi⟩

theorem legalWord_iff_exists_decode (w : Word) : legalWord w = true ↔ ∃ i : Instr, decode w = .ok i := by
  simp only [legalWord_iff, decode_eq_ok_iff]
  constructor
  · rintro ⟨hres, hop, ht⟩
    obtain ⟨i, hi, hit⟩ := exists_instr_of_traceAllowed hop ht
    exact ⟨i, hres, hi.symm, hit.symm⟩
  · rintro ⟨i, hres, hop, ht⟩
    rw [hop, ht]
    exact ⟨hres, i.wellFormed_iff.mp i.wellFormed_eq_true⟩

/-- R74's conditions in numbers. -/
theorem legalWord_iff_toNat (w : Word) :
    legalWord w = true ↔ w.toNat / 512 = 0 ∧ BitVec.ofNat 8 w.toNat ∈ legalOpcodes ∧
      (w.toNat / 256 % 2 = 1 → BitVec.ofNat 8 w.toNat ∈ traceOpcodes) := by
  rw [legalWord_iff, reservedField_eq_zero_iff, ← traceField_eq_true_iff, ← opField_eq]
  simp [opcodeKnown, traceAllowed, imp_iff_not_or]

/-- The 26 legal words of R74: 22 with T = 0, 4 with T = 1. -/
def legalWords : List Word := (Instr.all ++ Instr.traced).map encode

theorem legalWords_nodup : legalWords.Nodup := by decide

theorem mem_legalWords_iff (w : Word) : w ∈ legalWords ↔ legalWord w = true := by
  rw [legalWord_iff_exists_decode, legalWords, List.mem_map]
  constructor
  · rintro ⟨i, -, rfl⟩
    exact ⟨i, decode_encode i⟩
  · rintro ⟨i, h⟩
    exact ⟨i, List.mem_append.mpr i.mem_all_or_mem_traced, encode_of_decode h⟩

/-- Settles O1: the decoder and the encoder meet on the fields, which fix a word without reserved bits. -/
theorem decodeAndEncodeAgree : Obligations.DecodeAndEncodeAgree :=
  ⟨fun i => ⟨i.wellFormed_eq_true, decode_encode i⟩, fun _ _ => encode_of_decode, legalWord_iff_exists_decode⟩

/-- Settles O2: each word is the one the encoder writes for its command. -/
theorem specWordsDecode : Obligations.SpecWordsDecode :=
  ⟨decode_encode .sysNop, decode_encode .sysRst, decode_encode .sboxGen, decode_encode .pboxBwd,
    decode_encode .ksRc16, decode_encode (.rndFwd true), decode_encode (.rndInv false), decode_encode (.blkEnc false),
    decode_encode (.blkDec true), decode_encode .cbcDec, decode_encode .avalKey⟩

end Sys2Proof

namespace Sys2Proof.Machine

/-! ## Issuing a command word -/

theorem issue_of_decode {w : Word} {i : Instr} (h : decode w = .ok i) (s : State) : issue w s = exec i s := by
  rw [issue, h]

theorem issue_illegal {w : Word} (h : legalWord w = false) (s : State) : issue w s = .next (s.illegalCommand w) := by
  rw [issue]
  split
  case h_1 i hi =>
    have hlegal := (legalWord_iff_exists_decode w).mpr ⟨i, hi⟩
    rw [h] at hlegal
    cases hlegal
  case h_2 => rfl

theorem State.illegalCommand_running {s : State} (h : s.status.err = .noFault) (w : Word) :
    s.illegalCommand w = s.takeFault .illegalCmd w := by
  rw [State.illegalCommand, (s.halted_eq_false_iff).mpr h]
  rfl

/-- Settles O4: R74's conditions in numbers are those of `legalWord`, whose words are the 26 of `legalWords`. -/
theorem illegalWordFaultsAndNothingElse : Obligations.IllegalWordFaultsAndNothingElse := by
  unfold Obligations.IllegalWordFaultsAndNothingElse
  intro illegal
  have hlegal (w : Word) : ¬ illegal w ↔ legalWord w = true := by
    rw [legalWord_iff_toNat]
    simp only [illegal, legalOpcodes, traceOpcodes, not_or, not_and, not_not]
  refine ⟨fun s w hw herr => ?_, fun w => ?_, legalWords, legalWords_nodup, rfl, fun w => ?_⟩
  · have hw : legalWord w = false := Bool.eq_false_iff.mpr fun h => (hlegal w).mpr h hw
    rw [issue_illegal hw, State.illegalCommand_running herr]
    rfl
  · rw [hlegal, legalWord_iff_exists_decode]
  · rw [hlegal, mem_legalWords_iff]

/-! ## Steps on a command word -/

theorem step_idle {s : State} (h : s.port.pending = []) : step s = .next s := by
  rw [step, State.nextAction, h]

theorem State.withFetchWord_pending (s : State) (nbits w : Nat) :
    (s.withFetchWord nbits w).port.pending =
      .write 4 (s.cfg.base + Reg.offset .cmd) (BitVec.ofNat 32 (w % 2 ^ nbits)) :: s.port.pending := rfl

/-- Taking up the access `withFetchWord` puts first leaves what was pending before. -/
theorem State.withFetchWord_accept (s : State) (nbits w : Nat) (rest : List PortEvent) :
    (s.withFetchWord nbits w).accept rest = s.accept rest := rfl

theorem step_issue {s : State} {w : Word} {rest : List PortEvent}
    (h : s.port.pending = .write 4 (s.cfg.base + Reg.offset .cmd) w :: rest) (hbusy : s.status.busy = false) :
    step s = issue w (s.accept rest) :=
  step_write_cmd h (resolve_cmd s.cfg) hbusy

/-- Settles O3: CMD is at BASE + 0, and a step on a write to it issues the word. -/
theorem stepIssuesTheDecodedCommand : Obligations.StepIssuesTheDecodedCommand := by
  refine ⟨fun s w rest h hbusy => step_issue h hbusy, fun s w rest i h hbusy hdecode => ?_,
    fun s n i hbusy hdecode => ?_, fun s => step_idle⟩
  · exact (step_issue h hbusy).trans (issue_of_decode hdecode _)
  · calc step (s.withFetchWord 32 n)
      _ = issue _ ((s.withFetchWord 32 n).accept s.port.pending) := step_issue (s.withFetchWord_pending 32 n) hbusy
      _ = issue _ (s.accept s.port.pending) := by rw [State.withFetchWord_accept]
      _ = exec i (s.accept s.port.pending) := issue_of_decode hdecode _

end Sys2Proof.Machine

/-! O12 to O16: the functions of 40_sbox as rules. The loop of `Shuffle` as its run of draws and tables, the key hashes
one byte at a time, and lookups through a table and its positional inverse. -/

namespace Sys2Proof.Machine

/-! ## Shuffle (R104) -/

/-- Every entry after an exchange of two. -/
theorem swapEntries_getD {a : List Nat} {i j : Nat} (hi : i < a.length) (hj : j < a.length) {m : Nat}
    (hm : m < a.length) :
    (swapEntries a i j).getD m 0 = if m = i then a.getD j 0 else if m = j then a.getD i 0 else a.getD m 0 := by
  have hset : (swapEntries a i j).getD m 0 =
      if j = m then a.getD i 0 else if i = m then a.getD j 0 else a.getD m 0 := by
    simp [swapEntries, List.getElem_set, hi, hj, hm]
  rw [hset]
  grind

/-- The state of the generator of `Shuffle` after `k` draws. -/
def drawState (c : Config) (seed : Word) (k : Nat) : Word := genState (lcgNext c) k seed

/-- The table of `Shuffle` after `k` draws: draw `k` exchanges entry `n - 1 - k` with the one its high half picks. -/
def tableAfter (c : Config) (n : Nat) (seed : Word) : Nat → List Nat
  | 0 => List.range n
  | k + 1 =>
    swapEntries (tableAfter c n seed k) (n - 1 - k) ((drawState c seed (k + 1)).toNat / 65536 % (n - 1 - k + 1))

theorem drawState_succ (c : Config) (seed : Word) (k : Nat) :
    drawState c seed (k + 1) = lcgNext c (drawState c seed k) :=
  genState_succ (lcgNext c) k seed

@[simp] theorem tableAfter_length (c : Config) (n : Nat) (seed : Word) (k : Nat) :
    (tableAfter c n seed k).length = n := by
  induction k with
  | zero => simp [tableAfter]
  | succ k ih => simp [tableAfter, ih]

theorem tableAfter_succ_getD (c : Config) {n : Nat} (seed : Word) {k m : Nat} (hk : k + 1 < n) (hm : m < n) :
    let i := n - 1 - k
    let j := (drawState c seed (k + 1)).toNat / 65536 % (i + 1)
    (tableAfter c n seed (k + 1)).getD m 0 =
      if m = i then (tableAfter c n seed k).getD j 0
      else if m = j then (tableAfter c n seed k).getD i 0 else (tableAfter c n seed k).getD m 0 := by
  intro i j
  have hi : i < n := by change n - 1 - k < n; omega
  have hj : j < n := Nat.lt_of_lt_of_le (Nat.mod_lt _ (Nat.succ_pos i)) hi
  exact swapEntries_getD (by simpa using hi) (by simpa using hj) (by simpa using hm)

/-- What is left of the loop of `Shuffle` after `k` draws ends in the table after all of them. -/
theorem shuffleFrom_tableAfter (c : Config) (seed : Word) (i k : Nat) :
    shuffleFrom c i (drawState c seed k) (tableAfter c (k + i + 1) seed k) = tableAfter c (k + i + 1) seed (k + i) := by
  induction i generalizing k with
  | zero => rfl
  | succ i ih =>
    have hindex : k + (i + 1) + 1 - 1 - k = i + 1 := by omega
    have hswap : swapEntries (tableAfter c (k + (i + 1) + 1) seed k) (i + 1)
        ((drawState c seed (k + 1) >>> 16).toNat % (i + 2)) = tableAfter c (k + (i + 1) + 1) seed (k + 1) := by
      rw [tableAfter, hindex, BitVec.toNat_ushiftRight, Nat.shiftRight_eq_div_pow]
    have hnext := ih (k + 1)
    rw [show k + 1 + i = k + (i + 1) by omega] at hnext
    rw [shuffleFrom, ← drawState_succ, hswap, hnext]

/-- Settles O12: the run of the generator and the tables after each draw are those of the loop. -/
theorem shuffleIsFisherYates : Obligations.ShuffleIsFisherYates := by
  intro c n seed hn
  refine ⟨drawState c seed, tableAfter c n seed, rfl, drawState_succ c seed, rfl, fun k hk => ?_, ?_⟩
  · exact ⟨tableAfter_length c n seed (k + 1), fun m hm => tableAfter_succ_getD c seed hk hm⟩
  · have hloop := shuffleFrom_tableAfter c seed (n - 1) 0
    rwa [Nat.zero_add, Nat.sub_add_cancel hn] at hloop

/-! ## Key hashes and seeds (R101, R102, R166, R168) -/

theorem keyFold_append_singleton (c : Config) (k : Bytes) (b : Byte) :
    keyFold c (k ++ [b]) = keyFold c k * c.hashMul + b.zeroExtend 32 :=
  List.foldl_concat ..

theorem fnv1a_append_singleton (c : Config) (k : Bytes) (b : Byte) :
    fnv1a c (k ++ [b]) = (fnv1a c k ^^^ b.zeroExtend 32) * c.fnvPrime :=
  List.foldl_concat ..

theorem constSeed_of_ne_golden {c : Config} {k : Bytes} (h : fnv1a c k ≠ c.golden) :
    constSeed c k = fnv1a c k ^^^ c.golden :=
  if_neg fun hxor => h (BitVec.xor_eq_zero_iff.mp hxor)

theorem constSeed_of_eq_golden {c : Config} {k : Bytes} (h : fnv1a c k = c.golden) : constSeed c k = c.golden :=
  if_pos (BitVec.xor_eq_zero_iff.mpr h)

/-- Under R9's non-zero GOLDEN the xorshift generator never starts at its fixed point 0. -/
theorem constSeed_ne_zero {c : Config} (k : Bytes) (h : c.goldenOk = true) : constSeed c k ≠ 0#32 := by
  by_cases hgolden : fnv1a c k = c.golden
  · rw [constSeed_of_eq_golden hgolden]
    simpa [Config.goldenOk] using h
  · rw [constSeed_of_ne_golden hgolden]
    exact fun hxor => hgolden (BitVec.xor_eq_zero_iff.mp hxor)

/-- Settles O13: one fold step a byte, and the two cases of the constant seed. -/
theorem seedsFoldEveryKeyByteInOrder : Obligations.SeedsFoldEveryKeyByteInOrder := fun c k b =>
  ⟨rfl, keyFold_append_singleton c k b, rfl, fnv1a_append_singleton c k b, rfl, rfl, constSeed_of_ne_golden,
    constSeed_of_eq_golden, constSeed_ne_zero k⟩

/-! ## Bijections and positional inverses (R107 to R110) -/

/-- Settles O14: both tables are shuffles, which only exchange entries of the identity. -/
theorem generatedTablesAreBijections : Obligations.GeneratedTablesAreBijections := fun c k =>
  ⟨sboxGen_isBijection c k, pboxGen_isBijection c k⟩

theorem InverseTables.symm {t u : List Nat} {n : Nat} (h : InverseTables t u n) : InverseTables u t n := by
  obtain ⟨ht, hu, hleft, hright⟩ := h
  exact ⟨hu, ht, hright, hleft⟩

/-- A positional inverse is what `TableInvert` answers. -/
theorem InverseTables.tableInvert_eq_ok {t u : List Nat} {n : Nat} (h : InverseTables t u n) :
    tableInvert t n = .ok u := by
  obtain ⟨ht, ⟨hulen, hult, -⟩, -, hright⟩ := h
  have ⟨htlen, _, hnodup⟩ := ht
  refine (tableInvert_eq_ok_iff htlen u).mpr ⟨ht, List.ext_getElem (by simp [hulen]) fun v hv _ => ?_⟩
  have hentry : u[v] < t.length := htlen ▸ hult _ (List.getElem_mem hv)
  have hback : t[u[v]] = v := by
    have := hright v (hulen ▸ hv)
    rwa [List.getD_eq_getElem u 0 hv, List.getD_eq_getElem t 0 hentry] at this
  rw [List.getElem_map, List.getElem_range]
  calc u[v] = t.idxOf t[u[v]] := (hnodup.idxOf_getElem _ hentry).symm
    _ = t.idxOf v := by rw [hback]

/-- Settles O15: what `TableInvert` answers is the positional inverse, a symmetric relation. -/
theorem positionalInverseLaw : Obligations.PositionalInverseLaw := by
  intro n t hlen
  refine ⟨fun u hu => ?_, fun ⟨u, hu⟩ => ((tableInvert_eq_ok_iff hlen u).mp hu).1,
    fun hb => ⟨_, tableInvert_of_isBijection hb⟩⟩
  have hinv := tableInvert_inverseTables hlen hu
  have ⟨_, _, hleft, hright⟩ := hinv
  exact ⟨hleft, hright, hinv.symm.tableInvert_eq_ok⟩

/-! ## Lookups (R111, R112) -/

/-- In a bijection over 0..15 a lookup answers the table's entry. -/
theorem subNibble_toNat {t : List Nat} (h : IsBijection t 16) (v : Nibble) :
    (subNibble t v).toNat = t.getD v.toNat 0 := by
  obtain ⟨hlen, hlt, -⟩ := h
  have hv : v.toNat < t.length := hlen ▸ v.isLt
  have hentry : t.getD v.toNat 0 < 16 := List.getD_eq_getElem t 0 hv ▸ hlt _ (List.getElem_mem hv)
  rw [subNibble, BitVec.toNat_ofNat, Nat.mod_eq_of_lt hentry]

theorem InverseTables.subNibble_subNibble {t u : List Nat} (h : InverseTables t u 16) (v : Nibble) :
    subNibble u (subNibble t v) = v := by
  obtain ⟨ht, hu, hleft, -⟩ := h
  apply BitVec.eq_of_toNat_eq
  rw [subNibble_toNat hu, subNibble_toNat ht, hleft v.toNat v.isLt]

theorem InverseTables.subNibbles_subNibbles {t u : List Nat} (h : InverseTables t u 16) (s : Bytes) :
    subNibbles (subNibbles s t) u = s := by
  rw [subNibbles, subNibbles, List.map_map]
  exact List.map_id'' (fun b => by simp [h.subNibble_subNibble]) s

/-- Settles O16: the answer of `SboxInvert` is the positional inverse, through which each nibble comes back. -/
theorem lookupInverseLaw : Obligations.LookupInverseLaw := fun _ _ s hlen hinvert =>
  (tableInvert_inverseTables hlen hinvert).subNibbles_subNibbles s

end Sys2Proof.Machine

/-! O19 to O22: the commands of 40_sbox and the generation and inversion of 41_pbox. A command in a running engine takes
its first failing check as a fault or completes its effect, and an effect is a chain of updates whose frames compose. -/

namespace Sys2Proof.Machine

/-! ## A command in a running engine (30_encoding R79) -/

theorem exec_completes (i : Instr) (hi : i ≠ .sysRst) {s : State} (herr : s.status.err = .noFault)
    (hpass : ∀ c ∈ commandChecks s i, c = none) :
    exec i s = .next (s.traceCommand i (commandEffect s i)).complete := by
  rw [exec_eq_runCommand_traceCommand hi]
  exact runCommand_completes ((s.halted_eq_false_iff).mpr herr) ((firstFailure_eq_none_iff _).mpr hpass) _

theorem exec_faults (i : Instr) (hi : i ≠ .sysRst) {s : State} (herr : s.status.err = .noFault) {f : FaultRecord}
    (hfail : firstFailure (commandChecks s i) = some f) : exec i s = .next (s.takeFault f.code f.info) := by
  rw [exec_eq_runCommand_traceCommand hi]
  exact runCommand_fault ((s.halted_eq_false_iff).mpr herr) hfail _

/-! ## Frames -/

theorem Unchanged.trans {regs : List Reg} {touched : MemId → Nat → Prop} {s t u : State}
    (h : Unchanged regs touched s t) (h' : Unchanged regs touched t u) : Unchanged regs touched s u := by
  obtain ⟨hcfg, hport, hregs, hmem⟩ := h
  obtain ⟨hcfg', hport', hregs', hmem'⟩ := h'
  exact ⟨hcfg'.trans hcfg, hport'.trans hport, fun r hr => (hregs' r hr).trans (hregs r hr),
    fun m i hi => (hmem' m i hi).trans (hmem m i hi)⟩

/-- A frame holds with more registers and elements left open. -/
theorem Unchanged.mono {regs regs' : List Reg} {touched touched' : MemId → Nat → Prop} {s t : State}
    (h : Unchanged regs touched s t) (hregs : regs ⊆ regs') (htouched : ∀ m i, touched m i → touched' m i) :
    Unchanged regs' touched' s t := by
  obtain ⟨hcfg, hport, hreg, hmem⟩ := h
  exact ⟨hcfg, hport, fun r hr => hreg r fun hin => hr (hregs hin),
    fun m i hi => hmem m i fun hin => hi (htouched m i hin)⟩

theorem State.unchanged_with_status (s : State) (st : Status) :
    Unchanged [.status] noElement s { s with status := st } :=
  ⟨rfl, rfl, fun _ hr => s.readReg_with_status st (by simpa using hr), fun m _ _ => by cases m <;> rfl⟩

/-- Completion and the flags of R28 are STATUS alone, whatever else a command leaves open. -/
theorem Unchanged.with_status {regs : List Reg} {touched : MemId → Nat → Prop} {s t : State}
    (h : Unchanged regs touched s t) (st : Status) : Unchanged (.status :: regs) touched s { t with status := st } :=
  (h.mono (List.subset_cons_self _ _) fun _ _ hi => hi).trans
    ((t.unchanged_with_status st).mono (by simp) fun _ _ hi => hi.elim)

/-- A byte string written to a memory changes its elements there and nothing else. -/
theorem State.unchanged_setMem_writeBytes {s : State} (h : s.MemForm) (m : MemId) (i : Nat) (bs : Bytes) :
    Unchanged [] (elementsOf m i bs.length) s (s.setMem m ((s.memOf m).writeBytes i bs)) := by
  refine ⟨s.setMem_cfg m _, s.setMem_port m _, fun r _ => s.setMem_readReg m _ r, fun m' j houtside => ?_⟩
  by_cases heq : m' = m
  · subst heq
    rw [State.memOf_setMem_self, Memory.read_writeBytes (h.wf m'), if_neg fun hin => houtside ⟨rfl, hin⟩]
  · rw [State.memOf_setMem_of_ne s heq]

/-- An output changes OLEN and the elements of OBUF it fills (10_state R26, R35). -/
theorem State.unchanged_putOutput {s : State} (h : s.MemForm) (bs : Bytes) :
    Unchanged [.olen] (elementsOf .obuf 0 bs.length) s (s.putOutput bs) := by
  obtain ⟨hcfg, hport, hreg, hmem⟩ := State.unchanged_setMem_writeBytes h .obuf 0 bs
  refine ⟨hcfg, hport, fun r hr => ?_, hmem⟩
  cases r
  case olen => simp at hr
  all_goals rfl

/-! ## Tables in memories -/

theorem Memory.table_eq_map (m : Memory) (n : Nat) : m.table n = (List.range n).map fun i => (m.read i).toNat := by
  simp [Memory.table, Memory.slice]

theorem Memory.table_getD (m : Memory) {n i : Nat} (h : i < n) : (m.table n).getD i 0 = (m.read i).toNat := by
  simp [Memory.table_eq_map, h]

/-- Looking up in one memory and then in its inverse comes back to the index (40_sbox R109; 41_pbox R132). -/
theorem InverseTables.read_read {m m' : Memory} {n : Nat} (h : InverseTables (m.table n) (m'.table n) n) :
    ∀ i < n, (m'.read (m.read i).toNat).toNat = i := by
  obtain ⟨⟨_, hlt, _⟩, _, hleft, _⟩ := h
  intro i hi
  have hmem : (m.read i).toNat ∈ m.table n := by
    rw [Memory.table_eq_map]
    exact List.mem_map_of_mem (List.mem_range.mpr hi)
  have hback := hleft i hi
  rwa [Memory.table_getD m hi, Memory.table_getD m' (hlt _ hmem)] at hback

/-- What a command that writes a table leaves: the table in memory `m` from element 0 on, the flags of event `e`, and
DONE. -/
def State.storeTable (s : State) (m : MemId) (e : FlagEvent) (t : List Nat) : State :=
  ((s.setMem m ((s.memOf m).writeBytes 0 (tableBytes t))).flagEvent e).complete

section StoreTable

variable {s : State} {n : Nat} {t : List Nat}

theorem State.storeTable_unchanged (h : s.MemForm) (ht : IsBijection t n) (m : MemId) (e : FlagEvent) :
    Unchanged [.status] (elementsOf m 0 n) s (s.storeTable m e t) := by
  have hwrite := State.unchanged_setMem_writeBytes h m 0 (tableBytes t)
  rw [tableBytes_length, ht.1] at hwrite
  exact hwrite.with_status _

theorem State.storeTable_table (h : s.MemForm) (ht : IsBijection t n) (hn : n ≤ 256) (m : MemId) (e : FlagEvent) :
    ((s.storeTable m e t).memOf m).table n = t := by
  have hmem : (s.storeTable m e t).memOf m = (s.memOf m).writeBytes 0 (tableBytes t) := s.memOf_setMem_self m _
  rw [hmem, Memory.table_writeBytes_of_isBijection (h.wf m) ht hn]

theorem State.storeTable_read (h : s.MemForm) (ht : IsBijection t n) (hn : n ≤ 256) (m : MemId) (e : FlagEvent) :
    ∀ i < n, (((s.storeTable m e t).memOf m).read i).toNat = t.getD i 0 := fun i hi => by
  rw [← Memory.table_getD _ hi, State.storeTable_table h ht hn]

end StoreTable

/-! ## Generation (40_sbox R113; 41_pbox R137) -/

/-- Settles O19: both commands store a shuffle, which is a bijection, and their check is the one on KEYLEN. -/
theorem tableGenerationCompletes : Obligations.TableGenerationCompletes := by
  intro s herr hkey hform
  have hpass : ∀ c ∈ [s.checkKeylen], c = none := by simpa using (s.checkKeylen_eq_none_iff).mpr hkey
  have hsbox := sboxGen_isBijection s.cfg s.keyMaterial
  have hpbox := pboxGen_isBijection s.cfg s.keyMaterial
  exact ⟨⟨s.storeTable .sbox .sboxGen _, exec_completes .sboxGen nofun herr hpass,
      State.storeTable_read hform hsbox (by decide) .sbox .sboxGen, rfl, State.storeTable_unchanged hform hsbox _ _⟩,
    s.storeTable .pbox .pboxGen _, exec_completes .pboxGen nofun herr hpass,
      State.storeTable_read hform hpbox (by decide) .pbox .pboxGen, rfl, State.storeTable_unchanged hform hpbox _ _⟩

/-! ## Inversion (40_sbox R114; 41_pbox R138) -/

/-- The stored `TableInvert` of a bijection is its positional inverse, and is looked up as one. -/
theorem State.storeTable_tableInvert {s : State} (h : s.MemForm) {m : Memory} {n : Nat}
    (hb : IsBijection (m.table n) n) (hn : n ≤ 256) (inv : MemId) (e : FlagEvent) :
    let t := s.storeTable inv e (tableInvert (m.table n) n).table
    (∀ i < n, ((t.memOf inv).read (m.read i).toNat).toNat = i) ∧ InverseTables (m.table n) ((t.memOf inv).table n) n ∧
      Unchanged [.status] (elementsOf inv 0 n) s t := by
  intro t
  have hinverse := inverseTables_of_check hb.1 hb.check_eq_none
  have hu : IsBijection (tableInvert (m.table n) n).table n := hinverse.2.1
  have hstored : InverseTables (m.table n) ((t.memOf inv).table n) n := by
    rwa [State.storeTable_table h hu hn]
  exact ⟨hstored.read_read, hstored, State.storeTable_unchanged h hu inv e⟩

/-- Settles O20: a bijection passes the check, and the stored `TableInvert` is its positional inverse. -/
theorem tableInversionCompletes : Obligations.TableInversionCompletes := by
  intro s herr hform
  refine ⟨fun hb => ?sbox, fun hb => ?pbox⟩
  case sbox =>
    have hpass : ∀ c ∈ commandChecks s .sboxInv, c = none := by simp [commandChecks, hb.check_eq_none]
    obtain ⟨hread, hinverse, hframe⟩ := State.storeTable_tableInvert hform hb (by decide) .isbox .sboxInv
    exact ⟨_, exec_completes .sboxInv nofun herr hpass, hread, hinverse, rfl, hframe⟩
  case pbox =>
    have hpass : ∀ c ∈ commandChecks s .pboxInv, c = none := by simp [commandChecks, hb.check_eq_none]
    obtain ⟨hread, hinverse, hframe⟩ := State.storeTable_tableInvert hform hb (by decide) .ipbox .pboxInv
    exact ⟨_, exec_completes .pboxInv nofun herr hpass, hread, hinverse, rfl, hframe⟩

/-- Entry `i` of a table is out of range or repeats an earlier entry. -/
def BadEntry (e : Nat → Nat) (n i : Nat) : Prop := n ≤ e i ∨ ∃ j < i, e j = e i

/-- Entries that are in range and new are placed one by one, and the loop of `TableInvert` goes on (R108). -/
theorem invertFrom_append (n : Nat) (pre new rest : List Nat) (hnew : ∀ v ∈ new, v < n ∧ v ∉ pre)
    (hnodup : new.Nodup) :
    invertFrom n pre.length (new ++ rest) (inverseSoFar n pre) =
      invertFrom n (pre ++ new).length rest (inverseSoFar n (pre ++ new)) := by
  induction new generalizing pre with
  | nil => simp
  | cons v new ih =>
    rw [List.cons_append, invertFrom_cons, if_pos (hnew v List.mem_cons_self),
      ih (pre ++ [v]) (by grind) hnodup.of_cons, List.append_assoc, List.singleton_append]

/-- `TableInvert` fails at the lowest bad entry (R108). -/
theorem tableInvert_eq_fail {e : Nat → Nat} {n i : Nat} (hi : i < n) (hbad : BadEntry e n i)
    (hfirst : ∀ k < i, ¬ BadEntry e n k) : tableInvert ((List.range n).map e) n = .fail i := by
  obtain ⟨rest, hsplit⟩ : ∃ rest, (List.range n).map e = (List.range i).map e ++ e i :: rest := by
    obtain ⟨d, rfl⟩ := Nat.exists_eq_add_of_lt hi
    exact ⟨_, by rw [Nat.add_assoc, List.range_add, List.range_succ_eq_map, List.map_append]; rfl⟩
  have hrange : ∀ v ∈ (List.range i).map e, v < n := by
    simpa using fun k hk => Nat.lt_of_not_le fun hle => hfirst k hk (.inl hle)
  have hnodup : ((List.range i).map e).Nodup := by
    refine List.nodup_range.map_on fun j hj k hk heq => ?_
    rcases Nat.lt_trichotomy j k with hjk | hjk | hjk
    · exact absurd (.inr ⟨j, hjk, heq⟩) (hfirst k (List.mem_range.mp hk))
    · exact hjk
    · exact absurd (.inr ⟨k, hjk, heq.symm⟩) (hfirst j (List.mem_range.mp hj))
  have hstop : ¬ (e i < n ∧ e i ∉ (List.range i).map e) := by
    rintro ⟨hlt, hnew⟩
    rcases hbad with hle | ⟨j, hj, heq⟩
    · exact Nat.not_le.mpr hlt hle
    · exact hnew (List.mem_map.mpr ⟨j, List.mem_range.mpr hj, heq⟩)
  calc tableInvert ((List.range n).map e) n
    _ = invertFrom n 0 ((List.range i).map e ++ e i :: rest) (inverseSoFar n []) := by
      rw [tableInvert, inverseSoFar_nil, hsplit]
    _ = invertFrom n ((List.range i).map e).length (e i :: rest) (inverseSoFar n ((List.range i).map e)) :=
      invertFrom_append n [] _ _ (by simpa using hrange) hnodup
    _ = .fail i := by rw [invertFrom_cons, if_neg hstop]; simp

/-- The check of a table memory reports its lowest bad entry. -/
theorem Memory.firstFailure_check_of_badEntry {m : Memory} {n i : Nat} (hi : i < n)
    (hbad : BadEntry (fun j => (m.read j).toNat) n i)
    (hfirst : ∀ k < i, ¬ BadEntry (fun j => (m.read j).toNat) n k) :
    firstFailure [(tableInvert (m.table n) n).check] = some ⟨.notBijection, BitVec.ofNat 32 i⟩ := by
  rw [Memory.table_eq_map, tableInvert_eq_fail hi hbad hfirst, InvertResult.check, firstFailure_some]

/-- Settles O21: the one check of each command fails with the lowest bad entry, and the fault is taken. -/
theorem tableInversionFaultsAtLowestIndex : Obligations.TableInversionFaultsAtLowestIndex := fun s _ herr =>
  ⟨fun hi hbad hfirst =>
      exec_faults .sboxInv nofun herr (Memory.firstFailure_check_of_badEntry (m := s.sbox) hi hbad hfirst),
    fun hi hbad hfirst =>
      exec_faults .pboxInv nofun herr (Memory.firstFailure_check_of_badEntry (m := s.pbox) hi hbad hfirst)⟩

/-! ## Lookups (40_sbox R111, R115, R116) -/

/-- A byte looked up in a memory that holds a bijection, in numbers. -/
theorem subNibbles_getD_toNat {m : Memory} (h : IsBijection (m.table 16) 16) {s : Bytes} {i : Nat} (hi : i < s.length) :
    ((subNibbles s (m.table 16)).getD i 0#8).toNat =
      16 * (m.read ((s.getD i 0#8).toNat / 16)).toNat + (m.read ((s.getD i 0#8).toNat % 16)).toNat := by
  have hbyte : (subNibbles s (m.table 16)).getD i 0#8 =
      nibPair (subNibble (m.table 16) (hiNib (s.getD i 0#8))) (subNibble (m.table 16) (loNib (s.getD i 0#8))) := by
    simp [subNibbles, hi]
  have hnibble (v : Nibble) : (subNibble (m.table 16) v).toNat = (m.read v.toNat).toNat :=
    (subNibble_toNat h v).trans (Memory.table_getD m v.isLt)
  rw [hbyte, nibPair_toNat, hnibble, hnibble, hiNib_toNat, loNib_toNat]

/-- What an SBOX lookup through the table in `m` leaves of the output and of everything else. -/
theorem State.putOutput_subNibbles {s : State} (hform : s.MemForm) {m : Memory} (h : IsBijection (m.table 16) 16) :
    let t := (s.putOutput (subNibbles s.inputBytes (m.table 16))).complete
    t.olen = s.ilen ∧
      (∀ i < s.ilen.toNat, (t.obuf.read i).toNat =
        16 * (m.read ((s.ibuf.read i).toNat / 16)).toNat + (m.read ((s.ibuf.read i).toNat % 16)).toNat) ∧
      t.status = { s.status with done := true } ∧ Unchanged [.status, .olen] (elementsOf .obuf 0 s.ilen.toNat) s t := by
  have hlen : (subNibbles s.inputBytes (m.table 16)).length = s.ilen.toNat := by simp
  refine ⟨?olen, fun i hi => ?obuf, rfl, ?frame⟩
  case olen => simp
  case obuf =>
    have hin : s.inputBytes.getD i 0#8 = s.ibuf.read i := by
      rw [State.inputBytes, Memory.slice_getD _ _ _ _ hi, Nat.zero_add]
    rw [State.complete_obuf, State.putOutput_obuf_read (hform.wf .obuf), hlen, if_pos hi,
      subNibbles_getD_toNat h (by simpa using hi), hin]
  case frame =>
    have hframe := (State.unchanged_putOutput hform (subNibbles s.inputBytes (m.table 16))).with_status
    rw [hlen] at hframe
    exact hframe _

/-- Settles O22: truthful flags say that the table looked up in is a bijection. -/
theorem sboxLookupCompletes : Obligations.SboxLookupCompletes := by
  intro s herr hform ⟨hsbox, hisbox, _⟩ hlen
  have hinput := (s.checkInputLen_eq_none_iff).mpr hlen
  refine ⟨fun hsv => ?fwd, fun hisv => ?bwd⟩
  case fwd =>
    have hpass : ∀ c ∈ commandChecks s .sboxFwd, c = none := by simp [commandChecks, hinput, hsv, checkReady]
    exact ⟨_, exec_completes .sboxFwd nofun herr hpass, State.putOutput_subNibbles hform (hsbox hsv)⟩
  case bwd =>
    obtain ⟨_, _, hb, _⟩ := hisbox hisv
    have hpass : ∀ c ∈ commandChecks s .sboxBwd, c = none := by simp [commandChecks, hinput, hisv, checkReady]
    exact ⟨_, exec_completes .sboxBwd nofun herr hpass, State.putOutput_subNibbles hform hb⟩

end Sys2Proof.Machine

/-! O18 and O23: `PermuteBits` by R133's rule, the bit each source bit goes to. The laws of R136 and what the commands
PBOX.FWD and PBOX.BWD (R139, R140) leave in OBUF follow from it. -/

namespace Sys2Proof.Machine

/-! ## The rule of R133 -/

theorem IsBijection.getD_lt {t : List Nat} {n : Nat} (h : IsBijection t n) {i : Nat} (hi : i < n) :
    t.getD i 0 < n := by
  obtain ⟨hlen, hlt, -⟩ := h
  rw [List.getD_eq_getElem t 0 (hlen ▸ hi)]
  exact hlt _ (List.getElem_mem _)

/-- Source bit `i` goes to destination bit `p[i]`. -/
theorem IsBijection.bitAt_permuteBits {p : List Nat} (h : IsBijection p 64) (s : Bytes) {i : Nat} (hi : i < 64) :
    bitAt (permuteBits s p) (p.getD i 0) = bitAt s i := by
  have hentry := h.getD_lt hi
  obtain ⟨hlen, -, hnodup⟩ := h
  have hip : i < p.length := hlen ▸ hi
  rw [Machine.bitAt_permuteBits s p _ hentry, List.getD_eq_getElem p 0 hip, hnodup.idxOf_getElem i hip]

/-! ## The laws of R136 -/

/-- R136 (b): bit `i` goes to `p[i]` and from there to `u[p[i]] = i`. -/
theorem InverseTables.permuteBits_permuteBits {p u : List Nat} (h : InverseTables p u 64) {s : Bytes}
    (hs : s.length = 8) : permuteBits (permuteBits s p) u = s := by
  obtain ⟨hp, hu, hleft, -⟩ := h
  refine bytes_ext_bitAt (by simp [hs]) fun i hi => ?_
  have hi : i < 64 := by simpa using hi
  calc bitAt (permuteBits (permuteBits s p) u) i
    _ = bitAt (permuteBits (permuteBits s p) u) (u.getD (p.getD i 0) 0) := by rw [hleft i hi]
    _ = bitAt (permuteBits s p) (p.getD i 0) := hu.bitAt_permuteBits _ (hp.getD_lt hi)
    _ = bitAt s i := hp.bitAt_permuteBits s hi

/-- R136 (c), the weight: the destinations of the 64 source bits are each of the 64 bits once. -/
theorem IsBijection.countP_permuteBits {p : List Nat} (h : IsBijection p 64) (s : Bytes) :
    (List.range 64).countP (bitAt (permuteBits s p)) = (List.range 64).countP (bitAt s) := by
  have hperm : p.Perm (List.range 64) := (isBijection_iff_perm_range p 64).mp h
  have hentries : (List.range 64).map (fun i => p.getD i 0) = p :=
    List.ext_getElem (by simp [h.1]) fun i _ hi => by simp [hi]
  calc (List.range 64).countP (bitAt (permuteBits s p))
    _ = p.countP (bitAt (permuteBits s p)) := (hperm.countP_eq _).symm
    _ = (List.range 64).countP (bitAt (permuteBits s p) ∘ fun i => p.getD i 0) := by
      rw [← List.countP_map, hentries]
    _ = (List.range 64).countP (bitAt s) :=
      List.countP_congr fun i hi => by
        rw [Function.comp_apply, h.bitAt_permuteBits s (List.mem_range.mp hi)]

/-- R136 (c), linearity: each bit of the result is one bit of the source, whatever the table. -/
theorem permuteBits_xorBytes {s t : Bytes} (h : s.length = t.length) (p : List Nat) :
    permuteBits (xorBytes s t) p = xorBytes (permuteBits s p) (permuteBits t p) := by
  refine bytes_ext_bitAt (by simp) fun d hd => ?_
  have hd : d < 64 := by simpa using hd
  rw [bitAt_xorBytes _ _ (by simp), bitAt_permuteBits _ p d hd, bitAt_permuteBits _ p d hd,
    bitAt_permuteBits _ p d hd, bitAt_xorBytes s t h]

/-- Settles O18: what `TableInvert` answers is the positional inverse, so that each law is that of R133's rule. -/
theorem permuteBitsLaws : Obligations.PermuteBitsLaws := by
  refine ⟨pboxGen_isBijection, fun p u hlen hinvert => ?_⟩
  have hinverse := tableInvert_inverseTables hlen hinvert
  exact ⟨fun s hs => ⟨hinverse.permuteBits_permuteBits hs, hinverse.symm.permuteBits_permuteBits hs,
    hinverse.1.countP_permuteBits s⟩, fun s t hs ht => permuteBits_xorBytes (hs.trans ht.symm) p⟩

/-! ## The commands (R139, R140) -/

/-- What a permutation through the table in `m` leaves of the output and of everything else. -/
theorem State.putOutput_permuteBits {s : State} (hform : s.MemForm) {m : Memory} (h : IsBijection (m.table 64) 64) :
    let t := (s.putOutput (permuteBits s.inputBlock (m.table 64))).complete
    t.olen = 8#32 ∧ (∀ i < 64, bitAt (t.obuf.slice 0 8) (m.read i).toNat = bitAt (s.ibuf.slice 0 8) i) ∧
      t.status = { s.status with done := true } ∧ Unchanged [.status, .olen] (elementsOf .obuf 0 8) s t := by
  have hlen := permuteBits_length s.inputBlock (m.table 64)
  refine ⟨?olen, fun i hi => ?obuf, rfl, ?frame⟩
  case olen => simp
  case obuf =>
    have hout := State.putOutput_slice (hform.wf .obuf) (permuteBits s.inputBlock (m.table 64))
    rw [hlen] at hout
    rw [State.complete_obuf, hout, ← Memory.table_getD m hi, h.bitAt_permuteBits _ hi, State.inputBlock]
  case frame =>
    have hframe := (State.unchanged_putOutput hform (permuteBits s.inputBlock (m.table 64))).with_status
    rw [hlen] at hframe
    exact hframe _

/-- Settles O23: truthful flags say that the table permuted by is a bijection. -/
theorem pboxPermuteCompletes : Obligations.PboxPermuteCompletes := by
  intro s herr hform ⟨_, _, hpbox, hipbox, _⟩ hilen
  have hblock := (s.checkBlockLen_eq_none_iff).mpr (by rw [hilen]; rfl)
  refine ⟨fun hpv => ?fwd, fun hipv => ?bwd⟩
  case fwd =>
    have hpass : ∀ c ∈ commandChecks s .pboxFwd, c = none := by simp [commandChecks, hblock, hpv, checkReady]
    exact ⟨_, exec_completes .pboxFwd nofun herr hpass, State.putOutput_permuteBits hform (hpbox hpv)⟩
  case bwd =>
    obtain ⟨_, _, hb, _⟩ := hipbox hipv
    have hpass : ∀ c ∈ commandChecks s .pboxBwd, c = none := by simp [commandChecks, hblock, hipv, checkReady]
    exact ⟨_, exec_completes .pboxBwd nofun herr hpass, State.putOutput_permuteBits hform hb⟩

end Sys2Proof.Machine

/-! O29: the 128-bit rotation by the bit it takes for each bit of its result (42_key_schedule R163). -/

namespace Sys2Proof.Machine

theorem bitAt_rotL128 (s : Bytes) (n : Nat) {i : Nat} (hi : i < 128) :
    bitAt (rotL128 s n) i = bitAt s ((i + n) % 128) :=
  bitAt_fromBits 16 _ i hi

theorem rotL128_zero {s : Bytes} (hs : s.length = 16) : rotL128 s 0 = s := by
  refine bytes_ext_bitAt (by simp [hs]) fun i hi => ?_
  have hi : i < 128 := by simpa using hi
  rw [bitAt_rotL128 s 0 hi, Nat.add_zero, Nat.mod_eq_of_lt hi]

/-- A rotation by whole bytes moves bytes: bit `b` of byte `j` comes from bit `b` of byte `j + k`, counted round. -/
theorem byteAt_rotL128_mul_eight (s : Bytes) (k : Nat) {j : Nat} (hj : j < 16) :
    byteAt (rotL128 s (8 * k)) j = byteAt s ((j + k) % 16) := by
  refine BitVec.eq_of_getMsbD_eq fun b hb => ?_
  have hsource : (8 * j + b + 8 * k) % 128 = 8 * ((j + k) % 16) + b := by omega
  rw [byteAt_getMsbD _ _ _ hb, byteAt_getMsbD _ _ _ hb, bitAt_rotL128 s _ (by omega), hsource]

/-- Settles O29: each clause is read off the bits of the rotation. -/
theorem rotationRule : Obligations.RotationRule := fun s hs =>
  ⟨fun n _ => ⟨rotL128_length s n, fun _ hi => bitAt_rotL128 s n hi⟩, rotL128_zero hs,
    fun k _ _ hj => byteAt_rotL128_mul_eight s k hj⟩

end Sys2Proof.Machine

/-! O28: the schedules of `n` rounds in closed form, row `r` a function of `r` alone, so that more rounds only append
rows (42_key_schedule R164, R169). -/

namespace Sys2Proof.Machine

/-! ## Generators (R162, R169) -/

theorem genState_add (next : Word → Word) (m n : Nat) (x : Word) :
    genState next n (genState next m x) = genState next (m + n) x := by
  induction m generalizing x with
  | zero => rw [Nat.zero_add]; rfl
  | succ m ih => rw [Nat.succ_add]; exact ih (next x)

theorem genBytes_getD (next : Word → Word) (out : Word → Byte) {n : Nat} (x : Word) {k : Nat} (hk : k < n) :
    (genBytes next out n x).getD k 0#8 = out (genState next (k + 1) x) := by
  have hk : k < (genBytes next out n x).length := by simpa using hk
  rw [List.getD_eq_getElem _ _ hk, genBytes_getElem]

/-! ## The subkeys (R164) -/

/-- The schedule state before round `r`: round `r` takes it to the state whose even bytes are subkey `r`. -/
def scheduleState (c : Config) (k : Bytes) (sbox : List Nat) : Nat → Bytes
  | 0 => normalizeKey k
  | r + 1 => scheduleStep c sbox r (scheduleState c k sbox r)

theorem subkeysFrom_scheduleState (c : Config) (k : Bytes) (sbox : List Nat) (n r : Nat) :
    subkeysFrom c sbox n r (scheduleState c k sbox r) =
      (List.range' r n).map fun i => evenBytes (scheduleState c k sbox (i + 1)) := by
  induction n generalizing r with
  | zero => rfl
  | succ n ih => rw [subkeysFrom, List.range'_succ, List.map_cons, ← scheduleState, ih]

theorem deriveSubkeys_eq_map (c : Config) (k : Bytes) (n : Nat) (sbox : List Nat) :
    deriveSubkeys c k n sbox = (List.range n).map fun r => evenBytes (scheduleState c k sbox (r + 1)) := by
  rw [List.range_eq_range']
  exact subkeysFrom_scheduleState c k sbox n 0

/-! ## The constants (R167 to R169) -/

/-- The state of the constant generator after `n` steps from the seed of the key. -/
def constState (c : Config) (k : Bytes) (n : Nat) : Word := genState (xs32 c) n (constSeed c k)

theorem constState_succ (c : Config) (k : Bytes) (n : Nat) : constState c k (n + 1) = xs32 c (constState c k n) :=
  genState_succ (xs32 c) n (constSeed c k)

theorem constsFrom_constState (c : Config) (k : Bytes) (n r : Nat) :
    constsFrom c n (constState c k (8 * r)) =
      (List.range' r n).map fun i => genBytes (xs32 c) lowByte 8 (constState c k (8 * i)) := by
  induction n generalizing r with
  | zero => rfl
  | succ n ih =>
    have hnext : genState (xs32 c) 8 (constState c k (8 * r)) = constState c k (8 * (r + 1)) :=
      genState_add (xs32 c) (8 * r) 8 _
    rw [constsFrom, hnext, ih, List.range'_succ, List.map_cons]

theorem deriveRoundConsts8_eq_map (c : Config) (k : Bytes) (n : Nat) :
    deriveRoundConsts8 c k n = (List.range n).map fun r => genBytes (xs32 c) lowByte 8 (constState c k (8 * r)) := by
  rw [List.range_eq_range']
  exact constsFrom_constState c k n 0

/-- Settles O28: row `r` does not depend on the number of rounds. -/
theorem schedulesExtendWithMoreRounds : Obligations.SchedulesExtendWithMoreRounds := by
  intro c k sbox m n hmn
  have htake {α : Type} (f : Nat → α) : ((List.range n).map f).take m = (List.range m).map f := by
    rw [← List.map_take, List.take_range, Nat.min_eq_left hmn]
  refine ⟨deriveSubkeys_length c k n sbox, ?subkeys, deriveRoundConsts8_length c k n, ?consts⟩
  case subkeys => rw [deriveSubkeys_eq_map, htake, deriveSubkeys_eq_map]
  case consts => rw [deriveRoundConsts8_eq_map, htake, deriveRoundConsts8_eq_map]

end Sys2Proof.Machine

/-! O24 to O27: the commands of 42_key_schedule (R172 to R175). Each writes byte strings from element 0 of its memories
on; what a memory then holds is read off the string, byte by byte. -/

namespace Sys2Proof.Machine

/-! ## One string stored -/

/-- What a command that writes one memory leaves: the string `bs` in memory `m` from element 0 on, and STATUS `st`. -/
def State.storeBytes (s : State) (m : MemId) (bs : Bytes) (st : Status) : State :=
  { s.setMem m ((s.memOf m).writeBytes 0 bs) with status := st }

section StoreBytes

variable {s : State} {bs : Bytes} {n : Nat}

theorem State.memOf_storeBytes (s : State) (m : MemId) (bs : Bytes) (st : Status) :
    (s.storeBytes m bs st).memOf m = (s.memOf m).writeBytes 0 bs :=
  s.memOf_setMem_self m _

theorem State.storeBytes_read (h : s.MemForm) (hlen : bs.length = n) (m : MemId) (st : Status) {i : Nat} (hi : i < n) :
    ((s.storeBytes m bs st).memOf m).read i = bs.getD i 0#8 := by
  rw [State.memOf_storeBytes, Memory.read_writeBytes_zero (h.wf m), if_pos (hlen ▸ hi)]

theorem State.storeBytes_unchanged (h : s.MemForm) (hlen : bs.length = n) (m : MemId) (st : Status) :
    Unchanged [.status] (elementsOf m 0 n) s (s.storeBytes m bs st) := by
  subst hlen
  exact (State.unchanged_setMem_writeBytes h m 0 bs).with_status st

end StoreBytes

/-! ## KS.NORM (R161, R172) -/

/-- Byte `i` of the normalized key is the key's byte `i mod KEYLEN`, and 0 for the empty key. -/
theorem State.normalizeKey_keyMaterial_getD (s : State) {i : Nat} (hi : i < 16) :
    (normalizeKey s.keyMaterial).getD i 0#8 = if s.keylen = 0#32 then 0#8 else s.kmem.read (i % s.keylen.toNat) := by
  by_cases hempty : s.keylen = 0#32
  · have hzeros : normalizeKey s.keyMaterial = List.replicate 16 0#8 := if_pos (by simp [hempty])
    rw [hzeros, if_pos hempty, List.getD_replicate _ hi]
  · have hpos : s.keylen.toNat ≠ 0 := fun hzero => hempty (BitVec.eq_of_toNat_eq hzero)
    have hindex : i % s.keylen.toNat < s.keylen.toNat := Nat.mod_lt i (Nat.pos_of_ne_zero hpos)
    have hbyte : byteAt s.keyMaterial (i % s.keylen.toNat) = s.kmem.read (i % s.keylen.toNat) := by
      rw [byteAt, State.keyMaterial, Memory.slice_getD _ _ _ _ hindex, Nat.zero_add]
    simp [normalizeKey, hempty, hpos, hi, hbyte]

/-- Settles O24: NKEY holds the normalized key, written whole. -/
theorem ksNormCompletes : Obligations.KsNormCompletes := by
  intro s herr hkey hform
  have hpass : ∀ c ∈ [s.checkKeylen], c = none := by simpa using (s.checkKeylen_eq_none_iff).mpr hkey
  have hlen := normalizeKey_length s.keyMaterial
  exact ⟨s.storeBytes .nkey (normalizeKey s.keyMaterial) { s.status with done := true },
    exec_completes .ksNorm nofun herr hpass,
    fun _ hi => (State.storeBytes_read hform hlen .nkey _ hi).trans (s.normalizeKey_keyMaterial_getD hi), rfl,
    State.storeBytes_unchanged hform hlen _ _⟩

/-! ## KS.RC16 (R162, R173) -/

theorem topByte_toNat (x : Word) : (topByte x).toNat = x.toNat / 2 ^ 24 := by
  have hx : x.toNat / 2 ^ 24 < 2 ^ 8 := Nat.div_lt_of_lt_mul x.isLt
  rw [topByte, BitVec.extractLsb'_toNat, Nat.shiftRight_eq_div_pow, Nat.mod_eq_of_lt hx]

/-- `n` steps of the congruential generator are one multiplication by the `n`-th power of its multiplier. -/
theorem genState_rcNext_toNat (c : Config) (n : Nat) (x : Word) :
    (genState (rcNext c) n x).toNat = x.toNat * c.rcMul.toNat ^ n % 2 ^ 32 := by
  induction n with
  | zero => rw [pow_zero, Nat.mul_one, Nat.mod_eq_of_lt x.isLt]; rfl
  | succ n ih =>
    rw [genState_succ, rcNext, BitVec.toNat_mul, ih, Nat.mod_mul_mod, pow_succ c.rcMul.toNat n, Nat.mul_assoc]

theorem roundConstant16_getD_toNat (c : Config) (r : Word) {k : Nat} (hk : k < 16) :
    ((roundConstant16 c r).getD k 0#8).toNat =
      (c.rcSeed ^^^ r).toNat * c.rcMul.toNat ^ (k + 1) % 2 ^ 32 / 2 ^ 24 := by
  rw [roundConstant16, genBytes_getD _ _ _ hk, topByte_toNat, genState_rcNext_toNat]

/-- Settles O25: KS.RC16 makes no check, and RC16 holds the constant, written whole. -/
theorem ksRc16Completes : Obligations.KsRc16Completes := by
  intro s herr hform
  have hpass : ∀ c ∈ commandChecks s .ksRc16, c = none := List.forall_mem_nil _
  have hlen := roundConstant16_length s.cfg s.ridx
  refine ⟨s.storeBytes .rc16 (roundConstant16 s.cfg s.ridx) { s.status with done := true },
    exec_completes .ksRc16 nofun herr hpass, fun k hk => ?rc16, rfl, State.storeBytes_unchanged hform hlen _ _⟩
  have hread := State.storeBytes_read hform hlen .rc16 { s.status with done := true } hk
  exact (congrArg BitVec.toNat hread).trans (roundConstant16_getD_toNat s.cfg s.ridx hk)

/-! ## KS.SUBK (R164, R174) -/

/-- Byte `k` of row `r` of a schedule memory (10_state R34). -/
theorem Memory.rows_getD_getD (m : Memory) {n r k : Nat} (hr : r < n) (hk : k < 8) :
    ((m.rows n).getD r []).getD k 0#8 = m.read (8 * r + k) := by
  have hrow : (m.rows n).getD r [] = m.slice (8 * r) 8 := by simp [Memory.rows, hr]
  rw [hrow, Memory.slice_getD _ _ _ _ hk]

theorem evenBytes_getD (st : Bytes) {k : Nat} (hk : k < 8) : (evenBytes st).getD k 0#8 = st.getD (2 * k) 0#8 := by
  simp [evenBytes, byteAt, hk]

/-- What a memory that holds the subkeys of `n` rounds as rows reads as (10_state R34). -/
theorem Memory.read_of_rows_eq_deriveSubkeys {m : Memory} {c : Config} {key : Bytes} {sbox : List Nat} {n : Nat}
    (h : m.rows n = deriveSubkeys c key n sbox) {r k : Nat} (hr : r < n) (hk : k < 8) :
    m.read (8 * r + k) = (scheduleState c key sbox (r + 1)).getD (2 * k) 0#8 := by
  have hrow : (m.rows n).getD r [] = evenBytes (scheduleState c key sbox (r + 1)) := by
    simp [h, deriveSubkeys_eq_map, hr]
  rw [← Memory.rows_getD_getD m hr hk, hrow, evenBytes_getD _ hk]

/-- Settles O26: the chained states are those of the closed form of `DeriveSubkeys`. -/
theorem ksSubkCompletes : Obligations.KsSubkCompletes := by
  intro s herr hkey hrounds hsv hform
  have hpass : ∀ c ∈ commandChecks s .ksSubk, c = none := by
    simp [commandChecks, (s.checkKeylen_eq_none_iff).mpr hkey, (s.checkRounds_eq_none_iff).mpr hrounds, hsv, checkReady]
  have hrows := Memory.rows_write_deriveSubkeys (hform.wf .rk) s.cfg s.keyMaterial s.rounds.toNat s.sboxTable
  exact ⟨s.storeBytes .rk (deriveSubkeys s.cfg s.keyMaterial s.rounds.toNat s.sboxTable).flatten
      { s.status with done := true, kv := true },
    exec_completes .ksSubk nofun herr hpass,
    ⟨scheduleState s.cfg s.keyMaterial s.sboxTable, rfl, fun _ => rfl,
      fun _ hr _ hk => Memory.read_of_rows_eq_deriveSubkeys hrows hr hk⟩,
    rfl, State.storeBytes_unchanged hform (deriveSubkeys_flatten_length ..) _ _⟩

/-! ## KS.CONST (R167 to R170, R175) -/

theorem lowByte_toNat (x : Word) : (lowByte x).toNat = x.toNat % 256 := by
  rw [lowByte, BitVec.extractLsb'_toNat, Nat.shiftRight_zero]

/-- What a memory that holds the constants of `n` rounds as rows reads as: one run of the generator through all rows. -/
theorem Memory.read_of_rows_eq_deriveRoundConsts8 {m : Memory} {c : Config} {key : Bytes} {n : Nat}
    (h : m.rows n = deriveRoundConsts8 c key n) {j : Nat} (hj : j < 8 * n) :
    m.read j = lowByte (constState c key (j + 1)) := by
  have hr : j / 8 < n := Nat.div_lt_of_lt_mul hj
  have hk : j % 8 < 8 := Nat.mod_lt j (by decide)
  have hrow : (m.rows n).getD (j / 8) [] = genBytes (xs32 c) lowByte 8 (constState c key (8 * (j / 8))) := by
    simp [h, deriveRoundConsts8_eq_map, hr]
  have hstate : genState (xs32 c) (j % 8 + 1) (constState c key (8 * (j / 8))) = constState c key (j + 1) := by
    rw [constState, genState_add, ← Nat.add_assoc, Nat.div_add_mod, constState]
  calc m.read j
    _ = m.read (8 * (j / 8) + j % 8) := by rw [Nat.div_add_mod]
    _ = ((m.rows n).getD (j / 8) []).getD (j % 8) 0#8 := (Memory.rows_getD_getD m hr hk).symm
    _ = lowByte (constState c key (j + 1)) := by rw [hrow, genBytes_getD _ _ _ hk, hstate]

/-- A mask memory that holds the masks of the rows of a constant memory (R170). -/
theorem Memory.read_of_slice_eq_deriveRoundMasks {rcon mask : Memory} {n : Nat}
    (h : mask.slice 0 n = deriveRoundMasks (rcon.rows n)) {r : Nat} (hr : r < n) :
    mask.read r = rcon.read (8 * r) ^^^ rcon.read (8 * r + 7) ^^^ 0xA5#8 := by
  have hmask : (deriveRoundMasks (rcon.rows n)).getD r 0#8 = roundMask ((rcon.rows n).getD r []) := by
    simp [deriveRoundMasks, hr]
  have hread : mask.read r = (mask.slice 0 n).getD r 0#8 := by rw [Memory.slice_getD _ _ _ _ hr, Nat.zero_add]
  rw [hread, h, hmask, roundMask, byteAt, byteAt, Memory.rows_getD_getD rcon hr (by decide),
    Memory.rows_getD_getD rcon hr (by decide), Nat.add_zero]

theorem commandEffect_ksConst_rcon_rows {s : State} (h : s.MemForm) :
    (commandEffect s .ksConst).rcon.rows s.rounds.toNat = deriveRoundConsts8 s.cfg s.keyMaterial s.rounds.toNat :=
  Memory.rows_write_deriveRoundConsts8 (h.wf .rcon) ..

theorem commandEffect_ksConst_mask_slice {s : State} (h : s.MemForm) :
    (commandEffect s .ksConst).mask.slice 0 s.rounds.toNat =
      deriveRoundMasks ((commandEffect s .ksConst).rcon.rows s.rounds.toNat) := by
  rw [commandEffect_ksConst_rcon_rows h]
  exact Memory.slice_write_deriveRoundMasks (h.wf .mask) ..

/-- The two writes of KS.CONST and its flags change the elements written and STATUS. -/
theorem State.unchanged_ksConst {s : State} (h : s.MemForm) (hrounds : s.RoundsOk) :
    Unchanged [.status]
      (fun m i => elementsOf .rcon 0 (8 * s.rounds.toNat) m i ∨ elementsOf .mask 0 s.rounds.toNat m i)
      s (commandEffect s .ksConst).complete := by
  have hlen := deriveRoundConsts8_flatten_length s.cfg s.keyMaterial s.rounds.toNat
  have hrcon := State.unchanged_setMem_writeBytes h .rcon 0
    (deriveRoundConsts8 s.cfg s.keyMaterial s.rounds.toNat).flatten
  have hform := h.writeBytes .rcon (i := 0)
    (bs := (deriveRoundConsts8 s.cfg s.keyMaterial s.rounds.toNat).flatten) (by rw [hlen, MemId.size]; omega)
  have hmask := State.unchanged_setMem_writeBytes hform .mask 0
    (deriveRoundMasks (deriveRoundConsts8 s.cfg s.keyMaterial s.rounds.toNat))
  rw [hlen] at hrcon
  rw [deriveRoundMasks_length, deriveRoundConsts8_length] at hmask
  exact ((hrcon.mono (List.Subset.refl _) fun _ _ => .inl).trans
    (hmask.mono (List.Subset.refl _) fun _ _ => .inr)).with_status _

/-- Settles O27: the run is that of the constant generator, and the masks are those of the rows RCON then holds. -/
theorem ksConstCompletes : Obligations.KsConstCompletes := by
  intro s herr hkey hrounds hform
  have hpass : ∀ c ∈ commandChecks s .ksConst, c = none := by
    simp [commandChecks, (s.checkKeylen_eq_none_iff).mpr hkey, (s.checkRounds_eq_none_iff).mpr hrounds]
  have hrows := commandEffect_ksConst_rcon_rows hform
  refine ⟨_, exec_completes .ksConst nofun herr hpass,
    ⟨constState s.cfg s.keyMaterial, rfl, constState_succ s.cfg s.keyMaterial, fun j hj => ?rcon⟩,
    fun r hr => Memory.read_of_slice_eq_deriveRoundMasks (commandEffect_ksConst_mask_slice hform) hr, rfl,
    State.unchanged_ksConst hform hrounds⟩
  rw [← lowByte_toNat]
  exact congrArg BitVec.toNat (Memory.read_of_rows_eq_deriveRoundConsts8 hrows hj)

end Sys2Proof.Machine

/-! O30 and O31: the two stages of the round that move nibbles (43_round R203 to R207). Offset and its inverse are
rearrangements of the 16 nibbles by index, which compose as index functions do. -/

namespace Sys2Proof.Machine

/-! ## Offset (R203 to R205) -/

theorem nibbles_moveNibbles (s : Bytes) (f : Nat → Nat) :
    nibbles (moveNibbles s f) = (List.range 16).map fun q => (nibbles s).getD (f q) 0#4 :=
  nibbles_fromNibbles 8 _ (by simp)

/-- Rearranging by `f` and then by `g` takes nibble `q` from `f (g q)`. -/
theorem moveNibbles_moveNibbles (s : Bytes) (f : Nat → Nat) {g : Nat → Nat} (hg : ∀ q < 16, g q < 16) :
    moveNibbles (moveNibbles s f) g = moveNibbles s fun q => f (g q) := by
  rw [moveNibbles, nibbles_moveNibbles, moveNibbles]
  congr 1
  refine List.map_congr_left fun q hq => ?_
  simp [hg q (List.mem_range.mp hq)]

/-- Rearranging by the identity on 0..15 changes nothing. -/
theorem moveNibbles_eq_self {s : Bytes} (hs : s.length = 8) {f : Nat → Nat} (hf : ∀ q < 16, f q = q) :
    moveNibbles s f = s := by
  have hnibbles : ((List.range 16).map fun q => (nibbles s).getD (f q) 0#4) = nibbles s :=
    List.ext_getElem (by simp [hs]) fun q hq hq' => by simp [hf q (by simpa using hq), List.getElem?_eq_getElem hq']
  rw [moveNibbles, hnibbles, fromNibbles_nibbles]

theorem stInvOffset_stOffset {s : Bytes} (hs : s.length = 8) : stInvOffset (stOffset s) = s := by
  rw [stInvOffset, stOffset, moveNibbles_moveNibbles s _ (by decide)]
  exact moveNibbles_eq_self hs (by decide)

theorem stOffset_stInvOffset {s : Bytes} (hs : s.length = 8) : stOffset (stInvOffset s) = s := by
  rw [stOffset, stInvOffset, moveNibbles_moveNibbles s _ (by decide)]
  exact moveNibbles_eq_self hs (by decide)

/-- Row `ρ` rotated left by `ρ` four times is rotated by `4ρ`, which is no rotation of a row of four. -/
theorem stOffset_four_times {s : Bytes} (hs : s.length = 8) : stOffset (stOffset (stOffset (stOffset s))) = s := by
  rw [stOffset, stOffset, stOffset, stOffset, moveNibbles_moveNibbles _ _ (by decide),
    moveNibbles_moveNibbles _ _ (by decide), moveNibbles_moveNibbles _ _ (by decide)]
  exact moveNibbles_eq_self hs (by decide)

/-- Settles O30: the index functions of Offset and its inverse cancel on 0..15, and on eight given bytes Offset is read
off nibble by nibble. -/
theorem offsetRule : Obligations.OffsetRule := by
  refine ⟨fun s hs => ⟨stInvOffset_stOffset hs, stOffset_stInvOffset hs, stOffset_four_times hs⟩,
    fun a0 a1 a2 a3 a4 a5 a6 a7 => ?bytes⟩
  case bytes => simp [stOffset, moveNibbles, List.range_succ, nibbles, fromNibbles]

/-! ## NibbleShuffle (R206, R207) -/

/-- NibbleShuffle exchanges the nibbles of the same bytes again. -/
theorem stNibShuf_stNibShuf (s : Bytes) (m : Byte) : stNibShuf (stNibShuf s m) m = s := by
  refine List.ext_getElem (by simp) fun i _ _ => ?_
  by_cases h : m.getLsbD i <;> simp [stNibShuf, h]

theorem stNibShuf_getD (s : Bytes) (m : Byte) {i : Nat} (hi : i < s.length) :
    (stNibShuf s m).getD i 0#8 = if m.getLsbD i then swapNib (s.getD i 0#8) else s.getD i 0#8 := by
  simp [stNibShuf, hi]

/-- Settles O31: bit `i` of the mask has weight `2^i`. -/
theorem nibbleShuffleRule : Obligations.NibbleShuffleRule := by
  intro s m hs
  refine ⟨stNibShuf_stNibShuf s m, fun i hi => ?_⟩
  rw [stNibShuf_getD s m (hs ▸ hi), BitVec.getLsbD, Nat.testBit_eq_decide_div_mod_eq]
  simp only [decide_eq_true_eq]

end Sys2Proof.Machine

/-! O32: the six stages of the round, each undone by its inverse (43_round R211, R212, R219). -/

namespace Sys2Proof.Machine

theorem roundFwd_eq (s : Bytes) (r : Nat) (p : RoundParams) :
    roundFwd s r p =
      stAddConst (stTranspose (stAddKey (stNibShuf (stOffset (stSub s p)) (p.maskAt r)) r p) p) r p := rfl

theorem roundInv_eq (s : Bytes) (r : Nat) (p : RoundParams) :
    roundInv s r p =
      stInvSub (stInvOffset (stNibShuf (stAddKey (stInvTranspose (stAddConst s r p) p) r p) (p.maskAt r))) p := rfl

@[simp] theorem stSub_length (s : Bytes) (p : RoundParams) : (stSub s p).length = s.length := subNibbles_length ..

@[simp] theorem stTranspose_length (s : Bytes) (p : RoundParams) : (stTranspose s p).length = 8 :=
  permuteBits_length ..

@[simp] theorem stInvTranspose_length (s : Bytes) (p : RoundParams) : (stInvTranspose s p).length = 8 :=
  permuteBits_length ..

@[simp] theorem stAddKey_length (s : Bytes) (r : Nat) (p : RoundParams) :
    (stAddKey s r p).length = min s.length (p.rkAt r).length := xorBytes_length ..

@[simp] theorem stAddConst_length (s : Bytes) (r : Nat) (p : RoundParams) :
    (stAddConst s r p).length = min s.length (p.rconAt r).length := xorBytes_length ..

/-- AddRoundKey is self-inverse (R208). -/
theorem stAddKey_stAddKey {s : Bytes} {r : Nat} {p : RoundParams} (h : s.length = (p.rkAt r).length) :
    stAddKey (stAddKey s r p) r p = s := xorBytes_xorBytes _ _ h

/-- AddConst is self-inverse (R210). -/
theorem stAddConst_stAddConst {s : Bytes} {r : Nat} {p : RoundParams} (h : s.length = (p.rconAt r).length) :
    stAddConst (stAddConst s r p) r p = s := xorBytes_xorBytes _ _ h

/-- Settles O32, stage by stage from the outermost on: the self-inverse XOR, R136 (b), R207, R205 and R112. -/
theorem roundInverseLaw : Obligations.RoundInverseLaw := by
  intro p rounds r s ⟨hsbox, hpbox, hrow⟩ hr hs
  obtain ⟨hrk, hrcon⟩ := hrow r hr
  refine ⟨?invFwd, ?fwdInv⟩
  case invFwd =>
    rw [roundInv_eq, roundFwd_eq, stAddConst_stAddConst (by simp [hrcon]), stInvTranspose, stTranspose,
      hpbox.permuteBits_permuteBits (by simp [hrk]), stAddKey_stAddKey (by simp [hrk]), stNibShuf_stNibShuf,
      stInvOffset_stOffset (by simp [hs]), stInvSub, stSub, hsbox.subNibbles_subNibbles]
  case fwdInv =>
    rw [roundFwd_eq, roundInv_eq, stSub, stInvSub, hsbox.symm.subNibbles_subNibbles,
      stOffset_stInvOffset (by simp [hrk]), stNibShuf_stNibShuf, stAddKey_stAddKey (by simp [hrk]), stTranspose,
      stInvTranspose, hpbox.symm.permuteBits_permuteBits (by simp [hs, hrcon]),
      stAddConst_stAddConst (by simp [hs, hrcon])]

end Sys2Proof.Machine

/-! O33 and O34: the commands RND.FWD and RND.INV (43_round R217, R218). Each puts out one round of the parameters the
memories hold and, when traced, its record. -/

namespace Sys2Proof.Machine

/-! ## The parameters held (10_state R34) -/

section Held

variable {s : State} {r : Nat} (hr : r < s.cfg.roundsMax)
include hr

theorem State.roundParams_rkAt : s.roundParams.rkAt r = s.rk.slice (8 * r) 8 := by
  simp [State.roundParams, RoundParams.rkAt, Memory.rows, hr]

theorem State.roundParams_rconAt : s.roundParams.rconAt r = s.rcon.slice (8 * r) 8 := by
  simp [State.roundParams, RoundParams.rconAt, Memory.rows, hr]

theorem State.roundParams_maskAt : s.roundParams.maskAt r = s.mask.read r := by
  have h := Memory.slice_getD s.mask 0 s.cfg.roundsMax r hr
  rwa [Nat.zero_add] at h

theorem State.roundFwd_roundParams_length (b : Bytes) : (roundFwd b r s.roundParams).length = 8 := by
  simp [State.roundParams_rconAt hr]

/-- The stages of the forward round on the parameters held leave eight bytes each (R211). -/
theorem State.roundFwdTrace_roundParams_length {b : Bytes} (hb : b.length = 8) :
    (roundFwdTrace b r s.roundParams).bytes.length = 48 := by
  simp [roundFwdTrace, RoundTrace.bytes, State.roundParams_rkAt hr, State.roundParams_rconAt hr, hb]

/-- The stages of the inverse round on the parameters held leave eight bytes each (R212). -/
theorem State.roundInvTrace_roundParams_length {b : Bytes} (hb : b.length = 8) :
    (roundInvTrace b r s.roundParams).bytes.length = 48 := by
  simp [roundInvTrace, RoundTrace.bytes, stInvSub, State.roundParams_rkAt hr, State.roundParams_rconAt hr, hb]

end Held

/-! ## What a traced output leaves -/

/-- A record of six 8-byte snapshots changes its own round's elements of TRACE, when the command is traced (R213,
R214; 30_encoding R73). -/
theorem State.unchanged_traceIf {s : State} (h : s.MemForm) (traced : Bool) (r : Nat) {record : RoundTrace}
    (hrecord : record.bytes.length = 48) :
    Unchanged [] (traceElements traced r 1) s (s.traceIf traced r record) := by
  cases traced with
  | false => exact ⟨rfl, rfl, fun _ _ => rfl, fun _ _ _ => rfl⟩
  | true =>
    have hwrite := State.unchanged_setMem_writeBytes h .trace (48 * r) record.bytes
    rw [hrecord] at hwrite
    exact hwrite.mono (List.Subset.refl _) fun _ _ hi => ⟨rfl, hi⟩

/-- What a one-block command leaves when it puts out `out` and, traced, the record of round `r`. -/
theorem State.putOutput_traceIf {s : State} (h : s.MemForm) {r : Nat} (hr : r < s.cfg.roundsMax) (traced : Bool)
    {out : Bytes} (hout : out.length = 8) {record : RoundTrace} (hrecord : record.bytes.length = 48) :
    let t := ((s.putOutput out).traceIf traced r record).complete
    t.obuf.slice 0 8 = out ∧ t.olen = 8#32 ∧ (traced = true → t.trace.slice (48 * r) 48 = record.bytes) ∧
      t.status = { s.status with done := true } ∧
      Unchanged [.status, .olen] (fun m i => elementsOf .obuf 0 8 m i ∨ traceElements traced r 1 m i) s t := by
  intro t
  have ht : t = ((s.traceIf traced r record).putOutput out).complete := by cases traced <;> rfl
  have hform : (s.traceIf traced r record).MemForm := State.traceIf_memForm h traced hr (Nat.le_of_eq hrecord)
  rw [ht]
  refine ⟨?obuf, ?olen, fun htraced => ?trace, ?status, ?frame⟩
  case obuf =>
    have hslice := State.putOutput_slice (hform.wf .obuf) out
    rwa [hout] at hslice
  case olen => simp [hout]
  case trace =>
    subst htraced
    have hslice := State.putTrace_slice (h.wf .trace) r record
    rwa [hrecord] at hslice
  case status => cases traced <;> rfl
  case frame =>
    have hframe := State.unchanged_putOutput hform out
    rw [hout] at hframe
    exact (((State.unchanged_traceIf h traced r hrecord).mono (List.nil_subset _) fun _ _ => .inr).trans
      (hframe.mono (List.Subset.refl _) fun _ _ => .inl)).with_status _

/-! ## The commands -/

/-- The checks both commands make, in order, with the flags of each (R217, R218). -/
theorem State.roundChecks_pass {s : State} (hrounds : s.RoundsOk) (hridx : s.ridx.toNat < s.rounds.toNat)
    (hilen : s.ilen = 8#32) {flags : List (Bool × Nat)} (hflags : checkReady flags = none) :
    ∀ c ∈ [s.checkRounds, s.checkRidx, s.checkBlockLen, checkReady flags], c = none := by
  simp [(s.checkRounds_eq_none_iff).mpr hrounds, (s.checkRidx_eq_none_iff).mpr hridx,
    (s.checkBlockLen_eq_none_iff).mpr (by rw [hilen]; rfl), hflags]

/-- Settles O33: the held parameters are those of the round, and its six states are the record. -/
theorem roundForwardCompletes : Obligations.RoundForwardCompletes := by
  intro s traced herr hform hrounds hridx hilen hsv hpv hkv hcv r
  have ⟨_, hmax⟩ := hrounds
  have hr : r < s.cfg.roundsMax := Nat.lt_of_lt_of_le hridx hmax
  have hpass : ∀ c ∈ commandChecks s (.rndFwd traced), c = none :=
    State.roundChecks_pass hrounds hridx hilen (by simp [checkReady, hsv, hpv, hkv, hcv])
  have hrecord := State.roundFwdTrace_roundParams_length hr s.inputBlock_length
  rw [← State.roundParams_maskAt hr, ← State.roundParams_rkAt hr, ← State.roundParams_rconAt hr]
  exact ⟨_, exec_completes (.rndFwd traced) nofun herr hpass,
    State.putOutput_traceIf hform hr traced (State.roundFwd_roundParams_length hr _) hrecord⟩

/-- Settles O34: the held parameters are those of the round, and the six states of its inverse are the record. -/
theorem roundInverseCompletes : Obligations.RoundInverseCompletes := by
  intro s traced herr hform hrounds hridx hilen hisv hipv hkv hcv r
  have ⟨_, hmax⟩ := hrounds
  have hr : r < s.cfg.roundsMax := Nat.lt_of_lt_of_le hridx hmax
  have hpass : ∀ c ∈ commandChecks s (.rndInv traced), c = none :=
    State.roundChecks_pass hrounds hridx hilen (by simp [checkReady, hisv, hipv, hkv, hcv])
  have hrecord := State.roundInvTrace_roundParams_length hr s.inputBlock_length
  rw [← State.roundParams_maskAt hr, ← State.roundParams_rkAt hr, ← State.roundParams_rconAt hr]
  exact ⟨_, exec_completes (.rndInv traced) nofun herr hpass,
    State.putOutput_traceIf hform hr traced (roundInv_length ..) hrecord⟩

end Sys2Proof.Machine

/-! O35: neither the records TRACE holds nor the T bit is part of a command's checks and effect (43_round R215). -/

namespace Sys2Proof.Machine

/-! ## TRACE is no operand -/

section WithTrace

variable (s : State) (held : Memory)

@[simp] theorem State.withTrace_cfg : (s.withTrace held).cfg = s.cfg := rfl
@[simp] theorem State.withTrace_rounds : (s.withTrace held).rounds = s.rounds := rfl
@[simp] theorem State.withTrace_keyMaterial : (s.withTrace held).keyMaterial = s.keyMaterial := rfl
@[simp] theorem State.withTrace_inputBlock : (s.withTrace held).inputBlock = s.inputBlock := rfl
@[simp] theorem State.withTrace_keyParams : (s.withTrace held).keyParams = s.keyParams := rfl
@[simp] theorem State.withTrace_cbcCiphertext : (s.withTrace held).cbcCiphertext = s.cbcCiphertext := rfl
@[simp] theorem State.withTrace_cbcPlaintext : (s.withTrace held).cbcPlaintext = s.cbcPlaintext := rfl

@[simp] theorem State.withTrace_avalancheReport (target : FlipTarget) :
    (s.withTrace held).avalancheReport target = s.avalancheReport target := rfl

@[simp] theorem State.withTrace_putOutput (bs : Bytes) :
    (s.withTrace held).putOutput bs = (s.putOutput bs).withTrace held := rfl

@[simp] theorem State.withTrace_putReport (a : AvalancheReport) :
    (s.withTrace held).putReport a = (s.putReport a).withTrace held := rfl

@[simp] theorem State.withTrace_regen : (s.withTrace held).regen = s.regen.withTrace held := by
  rw [State.regen, State.regen, State.withTrace_keyParams]
  generalize s.keyParams = p
  rfl

theorem commandChecks_withTrace (i : Instr) : commandChecks (s.withTrace held) i = commandChecks s i := by
  cases i <;> rfl

/-- A command's effect neither reads TRACE nor writes it. The generated tables are made opaque, as evaluating them is no
part of the argument. -/
theorem commandEffect_withTrace (i : Instr) :
    commandEffect (s.withTrace held) i = (commandEffect s i).withTrace held := by
  cases i
  case sboxGen =>
    simp only [commandEffect, State.withTrace_cfg, State.withTrace_keyMaterial]
    generalize sboxGen s.cfg s.keyMaterial = table
    rfl
  case pboxGen =>
    simp only [commandEffect, State.withTrace_cfg, State.withTrace_keyMaterial]
    generalize pboxGen s.cfg s.keyMaterial = table
    rfl
  case blkEnc | blkDec | cbcEnc | cbcDec | avalPt | avalKey => simp [commandEffect]
  all_goals rfl

end WithTrace

/-! ## Commands that differ in TRACE alone -/

/-- Both outcomes are next states, which differ in TRACE at most. -/
def AgreeButTrace (o o' : Host.Outcome State Fault Refusal) : Prop :=
  ∃ t u, o = .next t ∧ o' = .next u ∧ u.withTrace t.trace = t

/-- The same checks and the same effect agree but in TRACE, whatever TRACE held and whatever records are written. -/
theorem runCommand_agreeButTrace (s e : State) (checks : List (Option FaultRecord)) (held records records' : Memory) :
    AgreeButTrace (runCommand s checks (e.withTrace records))
      (runCommand (s.withTrace held) checks (e.withTrace records')) := by
  cases hhalt : s.halted with
  | true => exact ⟨_, _, runCommand_halted hhalt _ _, runCommand_halted (s := s.withTrace held) hhalt _ _, rfl⟩
  | false =>
    have hhalt' : (s.withTrace held).halted = false := hhalt
    cases hfail : firstFailure checks with
    | some f => exact ⟨_, _, runCommand_fault hhalt hfail _, runCommand_fault hhalt' hfail _, rfl⟩
    | none => exact ⟨_, _, runCommand_completes hhalt hfail _, runCommand_completes hhalt' hfail _, rfl⟩

/-- Two commands with the same checks and the same effect agree but in TRACE, and so do two runs of one command on
states that do. -/
theorem exec_agreeButTrace {i j : Instr} (hi : i ≠ .sysRst) (hj : j ≠ .sysRst) (s : State) (held : Memory)
    (hchecks : commandChecks s j = commandChecks s i) (heffect : commandEffect s j = commandEffect s i) :
    AgreeButTrace (exec i s) (exec j (s.withTrace held)) := by
  obtain ⟨records, hrun⟩ := exec_eq_runCommand hi s
  obtain ⟨records', hrun'⟩ := exec_eq_runCommand hj (s.withTrace held)
  rw [commandChecks_withTrace, commandEffect_withTrace, hchecks, heffect] at hrun'
  rw [hrun, hrun']
  exact runCommand_agreeButTrace s _ _ held records records'

/-- Settles O35: a traced command has the same checks and effect with either T bit, and SYS.RST empties TRACE. -/
theorem traceNonInterference : Obligations.TraceNonInterference := by
  refine ⟨fun command hcommand s => ?traceBit, fun i s held => ?held⟩
  case traceBit =>
    have hbit : command false ≠ .sysRst ∧ command true ≠ .sysRst ∧
        commandChecks s (command true) = commandChecks s (command false) ∧
        commandEffect s (command true) = commandEffect s (command false) := by
      simp only [List.mem_cons, List.not_mem_nil, or_false] at hcommand
      rcases hcommand with rfl | rfl | rfl | rfl <;> exact ⟨nofun, nofun, rfl, rfl⟩
    obtain ⟨hfalse, htrue, hchecks, heffect⟩ := hbit
    exact exec_agreeButTrace hfalse htrue s s.trace hchecks heffect
  case held =>
    by_cases hi : i = .sysRst
    · subst hi
      exact ⟨s.toReset, s.toReset, rfl, rfl, rfl⟩
    · exact exec_agreeButTrace hi hi s held rfl rfl

end Sys2Proof.Machine

/-! O37: the derived parameters are a valid set, so each round undoes the other's (43_round R219), and the block rounds
cancel from the innermost pair on (44_block_engine R242, R243, R248). -/

namespace Sys2Proof.Machine

/-! ## The derived parameters (R241) -/

theorem deriveParams_sbox (c : Config) (k : Bytes) (rounds : Nat) :
    (deriveParams c k rounds).sbox = sboxGen c k := by
  rw [deriveParams]

theorem deriveParams_isbox (c : Config) (k : Bytes) (rounds : Nat) :
    (deriveParams c k rounds).isbox = (tableInvert (sboxGen c k) 16).table := by
  rw [deriveParams]

theorem deriveParams_pbox (c : Config) (k : Bytes) (rounds : Nat) :
    (deriveParams c k rounds).pbox = pboxGen c k := by
  rw [deriveParams]

theorem deriveParams_ipbox (c : Config) (k : Bytes) (rounds : Nat) :
    (deriveParams c k rounds).ipbox = (tableInvert (pboxGen c k) 64).table := by
  rw [deriveParams]

theorem deriveParams_rkAt_length (c : Config) (k : Bytes) {rounds r : Nat} (hr : r < rounds) :
    ((deriveParams c k rounds).rkAt r).length = 8 := by
  have hlt : r < (deriveSubkeys c k rounds (sboxGen c k)).length := by rwa [deriveSubkeys_length]
  rw [RoundParams.rkAt, deriveParams, List.getD_eq_getElem _ _ hlt]
  exact subkeysFrom_mem_length c _ rounds 0 (normalizeKey k) _ (List.getElem_mem hlt)

theorem sboxGen_inverseTables (c : Config) (k : Bytes) :
    InverseTables (sboxGen c k) (tableInvert (sboxGen c k) 16).table 16 :=
  inverseTables_of_check (sboxGen_length c k) (sboxGen_isBijection c k).check_eq_none

theorem pboxGen_inverseTables (c : Config) (k : Bytes) :
    InverseTables (pboxGen c k) (tableInvert (pboxGen c k) 64).table 64 :=
  inverseTables_of_check (pboxGen_length c k) (pboxGen_isBijection c k).check_eq_none

theorem deriveParams_valid (c : Config) (k : Bytes) (rounds : Nat) : (deriveParams c k rounds).Valid rounds := by
  have hsbox := sboxGen_inverseTables c k
  have hpbox := pboxGen_inverseTables c k
  rw [← deriveParams_isbox c k rounds, ← deriveParams_sbox c k rounds] at hsbox
  rw [← deriveParams_ipbox c k rounds, ← deriveParams_pbox c k rounds] at hpbox
  exact ⟨hsbox, hpbox, fun _ hr => ⟨deriveParams_rkAt_length c k hr, deriveParams_rconAt_length c k hr⟩⟩

/-! ## Rounds that cancel (R242, R243) -/

/-- The last of `n + 1` forward rounds. -/
theorem fwdRounds_succ (p : RoundParams) (n r : Nat) (b : Bytes) :
    fwdRounds p (n + 1) r b = roundFwd (fwdRounds p n r b) (r + n) p := by
  induction n generalizing r b with
  | zero => rfl
  | succ n ih => rw [fwdRounds, ih, fwdRounds, Nat.add_right_comm, Nat.add_assoc]

theorem fwdRounds_zero_succ (p : RoundParams) (n : Nat) (b : Bytes) :
    fwdRounds p (n + 1) 0 b = roundFwd (fwdRounds p n 0 b) n p := by
  rw [fwdRounds_succ, Nat.zero_add]

section Valid

variable {p : RoundParams} {rounds n : Nat} {b : Bytes} (hp : p.Valid rounds) (hn : n ≤ rounds) (hb : b.length = 8)
include hp hn hb

theorem RoundParams.Valid.fwdRounds_length : (fwdRounds p n 0 b).length = 8 := by
  obtain ⟨_, _, hrow⟩ := hp
  exact Machine.fwdRounds_length hb fun j hj => (hrow j (by omega)).2

theorem RoundParams.Valid.invRounds_fwdRounds : invRounds p n (fwdRounds p n 0 b) = b := by
  induction n with
  | zero => rfl
  | succ n ih =>
    have hlen := RoundParams.Valid.fwdRounds_length hp (Nat.le_of_succ_le hn) hb
    rw [fwdRounds_zero_succ, invRounds, (roundInverseLaw p rounds n _ hp hn hlen).1,
      ih (Nat.le_of_succ_le hn)]

theorem RoundParams.Valid.fwdRounds_invRounds : fwdRounds p n 0 (invRounds p n b) = b := by
  induction n generalizing b with
  | zero => rfl
  | succ n ih =>
    rw [fwdRounds_zero_succ, invRounds, ih (Nat.le_of_succ_le hn) (roundInv_length b n p),
      (roundInverseLaw p rounds n b hp hn hb).2]

end Valid

/-- Settles O37: the derived parameters are valid, and their rounds cancel. -/
theorem blockRoundTrip : Obligations.BlockRoundTrip := by
  intro c b k rounds hb _
  have hp := deriveParams_valid c k rounds
  exact ⟨hp, hp.invRounds_fwdRounds (Nat.le_refl rounds) hb, hp.fwdRounds_invRounds (Nat.le_refl rounds) hb⟩

end Sys2Proof.Machine

/-! O40: Regen leaves the derived parameters in the table and schedule memories (44_block_engine R245), and nothing a
composite command does after it touches them. -/

namespace Sys2Proof.Machine

/-! ## The parameters held after Regen -/

/-- The round-parameter set in the memories, of the rounds below `n`. -/
def State.heldParams (s : State) (n : Nat) : RoundParams where
  sbox := s.sboxTable
  isbox := s.isboxTable
  pbox := s.pboxTable
  ipbox := s.ipboxTable
  rk := s.rk.rows n
  rcon := s.rcon.rows n
  mask := s.mask.slice 0 n

@[simp] theorem State.putOutput_heldParams (s : State) (bs : Bytes) (n : Nat) :
    (s.putOutput bs).heldParams n = s.heldParams n := rfl

@[simp] theorem State.putReport_heldParams (s : State) (a : AvalancheReport) (n : Nat) :
    (s.putReport a).heldParams n = s.heldParams n := rfl

@[simp] theorem State.withTrace_heldParams (s : State) (records : Memory) (n : Nat) :
    (s.withTrace records).heldParams n = s.heldParams n := rfl

@[simp] theorem State.complete_heldParams (s : State) (n : Nat) : s.complete.heldParams n = s.heldParams n := rfl

theorem State.regen_heldParams {s : State} (h : s.MemForm) : s.regen.heldParams s.rounds.toNat = s.keyParams := by
  obtain ⟨hS, hS', _⟩ := sboxGen_inverseTables s.cfg s.keyMaterial
  obtain ⟨hP, hP', _⟩ := pboxGen_inverseTables s.cfg s.keyMaterial
  have hsbox : s.regen.sboxTable = s.keyParams.sbox := by
    rw [State.sboxTable, State.regen_sbox, State.keyParams_sbox]
    exact Memory.table_writeBytes_of_isBijection (h.wf .sbox) hS (by decide)
  have hisbox : s.regen.isboxTable = s.keyParams.isbox := by
    rw [State.isboxTable, State.regen_isbox, State.keyParams_isbox]
    exact Memory.table_writeBytes_of_isBijection (h.wf .isbox) hS' (by decide)
  have hpbox : s.regen.pboxTable = s.keyParams.pbox := by
    rw [State.pboxTable, State.regen_pbox, State.keyParams_pbox]
    exact Memory.table_writeBytes_of_isBijection (h.wf .pbox) hP (by decide)
  have hipbox : s.regen.ipboxTable = s.keyParams.ipbox := by
    rw [State.ipboxTable, State.regen_ipbox, State.keyParams_ipbox]
    exact Memory.table_writeBytes_of_isBijection (h.wf .ipbox) hP' (by decide)
  have hrk : s.regen.rk.rows s.rounds.toNat = s.keyParams.rk := by
    rw [State.regen_rk, State.keyParams_rk]
    exact Memory.rows_write_deriveSubkeys (h.wf .rk) ..
  have hrcon : s.regen.rcon.rows s.rounds.toNat = s.keyParams.rcon := by
    rw [State.regen_rcon, State.keyParams_rcon]
    exact Memory.rows_write_deriveRoundConsts8 (h.wf .rcon) ..
  have hmask : s.regen.mask.slice 0 s.rounds.toNat = s.keyParams.mask := by
    rw [State.regen_mask, State.keyParams_mask]
    exact Memory.slice_write_deriveRoundMasks (h.wf .mask) ..
  rw [State.heldParams, hsbox, hisbox, hpbox, hipbox, hrk, hrcon, hmask]

/-! ## The composite commands -/

theorem mem_compositeCommands_iff (i : Instr) :
    i ∈ compositeCommands ↔ (∃ t, i = .blkEnc t) ∨ (∃ t, i = .blkDec t) ∨ i = .cbcEnc ∨ i = .cbcDec ∨ i = .avalPt ∨
      i = .avalKey := by
  simp [compositeCommands, or_assoc]

theorem ne_sysRst_of_composite {i : Instr} (hi : i ∈ compositeCommands) : i ≠ .sysRst := by
  rintro rfl
  revert hi
  decide

/-- The records a command writes change TRACE and nothing else. -/
theorem State.traceCommand_eq_withTrace (s : State) (i : Instr) (e : State) :
    s.traceCommand i e = e.withTrace (s.traceCommand i e).trace := by
  cases i
  case rndFwd t | rndInv t => exact State.traceIf_eq e t _ _
  case blkEnc t =>
    cases t with
    | false => rfl
    | true => exact State.traceFwd_eq ..
  case blkDec t =>
    cases t with
    | false => rfl
    | true => exact State.traceInv_eq ..
  all_goals rfl

/-- A command in a running engine whose checks pass, with the records it writes set apart from its effect. -/
theorem exec_completes_withTrace (i : Instr) (hi : i ≠ .sysRst) {s : State} (herr : s.status.err = .noFault)
    (hpass : ∀ c ∈ commandChecks s i, c = none) :
    exec i s = .next ((commandEffect s i).withTrace (s.traceCommand i (commandEffect s i)).trace).complete := by
  rw [exec_completes i hi herr hpass, ← State.traceCommand_eq_withTrace]

/-- What a composite command leaves in the memories Regen writes, and in STATUS, whatever else it puts out. -/
theorem commandEffect_of_composite {i : Instr} (hi : i ∈ compositeCommands) (s : State) (n : Nat) :
    (commandEffect s i).heldParams n = s.regen.heldParams n ∧
      (commandEffect s i).status = s.status.flags .regen := by
  rcases (mem_compositeCommands_iff i).mp hi with ⟨t, rfl⟩ | ⟨t, rfl⟩ | rfl | rfl | rfl | rfl <;> simp [commandEffect]

/-- A composite command whose checks pass completes with the derived parameters held and every valid flag set. -/
theorem exec_composite {i : Instr} (hi : i ∈ compositeCommands) {s : State} (herr : s.status.err = .noFault)
    (h : s.MemForm) (hpass : ∀ c ∈ commandChecks s i, c = none) :
    ∃ t, exec i s = .next t ∧ t.heldParams s.rounds.toNat = s.keyParams ∧
      t.status = { s.status with
        done := true, sv := true, isv := true, pv := true, ipv := true, kv := true, cv := true } := by
  obtain ⟨hheld, hstatus⟩ := commandEffect_of_composite hi s s.rounds.toNat
  refine ⟨_, exec_completes_withTrace i (ne_sysRst_of_composite hi) herr hpass, ?held, ?status⟩
  case held => rw [State.complete_heldParams, State.withTrace_heldParams, hheld, State.regen_heldParams h]
  case status =>
    rw [State.complete_status, State.withTrace, hstatus]
    rfl

/-! ## The checks as the spec's rows -/

@[simp] theorem keylenRow_passes_iff (s : State) : (keylenRow s).passes = true ↔ s.checkKeylen = none := by
  simp [keylenRow, State.checkKeylen_eq_none_iff, State.KeyOk]

@[simp] theorem roundsRow_passes_iff (s : State) : (roundsRow s).passes = true ↔ s.checkRounds = none := by
  simp [roundsRow, State.checkRounds_eq_none_iff, State.RoundsOk]

@[simp] theorem blockRow_passes_iff (s : State) : (blockRow s).passes = true ↔ s.checkBlockLen = none := by
  simp [blockRow, State.checkBlockLen_eq_none_iff, ← BitVec.toNat_inj]

@[simp] theorem lengthRow_bufCap_passes_iff (s : State) :
    (lengthRow s s.cfg.bufCap).passes = true ↔ s.checkInputLen = none := by
  simp [lengthRow, State.checkInputLen_eq_none_iff]

@[simp] theorem lengthRow_padded_passes_iff (s : State) :
    (lengthRow s (s.cfg.bufCap - 8)).passes = true ↔ s.checkPadLen = none := by
  simp only [lengthRow, State.checkPadLen_eq_none_iff, decide_eq_true_eq]
  omega

/-- The BAD_PAD check passes when `CbcDec` answers (45_cbc R266, R270). -/
theorem State.cbcPlaintext_check_of_cbcDec {s : State} {q : Bytes}
    (h : cbcDec s.cfg s.inputBytes s.keyMaterial s.ivBytes s.rounds.toNat = .ok q) : s.cbcPlaintext.check = none := by
  rw [Machine.cbcDec] at h
  split at h
  · cases h
  · rw [State.cbcPlaintext]
    cases hunpad : unpad (cbcDecRaw s.cfg s.inputBytes s.keyMaterial s.ivBytes s.rounds.toNat) with
    | ok m => rfl
    | invalid p => rw [hunpad] at h; cases h

/-- The rows of a composite command and, for CBC.DEC, its data-dependent check are all its checks. -/
theorem commandChecks_pass_of_rows {i : Instr} (hi : i ∈ compositeCommands) {s : State}
    (hrows : ∀ c ∈ checkRows s i, c.passes = true) (hpad : i = .cbcDec → s.cbcPlaintext.check = none) :
    ∀ c ∈ commandChecks s i, c = none := by
  cases i
  case blkEnc | blkDec | cbcEnc => simpa [commandChecks, checkRows] using hrows
  case cbcDec =>
    simpa [commandChecks, checkRows, hpad, State.checkFormat_eq_none_iff, Nat.pos_iff_ne_zero] using hrows
  case avalPt | avalKey => simpa [commandChecks, checkRows, State.checkBitidx_eq_none_iff] using hrows
  all_goals simp [compositeCommands] at hi

/-- Settles O40: the parts of the held set are those of the derived one. -/
theorem compositeCommandsRegenerate : Obligations.CompositeCommandsRegenerate := by
  intro i hi s herr hform hrows hpad n p
  have hpass := commandChecks_pass_of_rows hi hrows fun hdec =>
    have ⟨_, hq⟩ := hpad hdec
    State.cbcPlaintext_check_of_cbcDec hq
  obtain ⟨t, hexec, hheld, hstatus⟩ := exec_composite hi herr hform hpass
  have hp : p = t.heldParams n := hheld.symm
  rw [hp]
  exact ⟨t, hexec, rfl, rfl, rfl, rfl, rfl, rfl, rfl, hstatus⟩

end Sys2Proof.Machine

/-! O38 and O39: the commands BLK.ENC and BLK.DEC (44_block_engine R246, R247). Each runs Regen, puts out one block and,
when traced, writes one record a round; what they leave is said once, for any block and any records. -/

namespace Sys2Proof.Machine

/-! ## What Regen leaves alone (R245) -/

theorem regenElements_of_lt_regenBytes_length {s : State} {m : MemId} {i : Nat} (hi : i < (s.regenBytes m).length) :
    regenElements s.rounds.toNat m i := by
  have hisbox := (sboxGen_inverseTables s.cfg s.keyMaterial).2.1.1
  have hipbox := (pboxGen_inverseTables s.cfg s.keyMaterial).2.1.1
  cases m <;> simp only [State.regenBytes, regenElements] at hi ⊢
  case sbox => simpa [State.keyParams_sbox] using hi
  case isbox => simpa [State.keyParams_isbox, hisbox] using hi
  case pbox => simpa [State.keyParams_pbox] using hi
  case ipbox => simpa [State.keyParams_ipbox, hipbox] using hi
  case rk => rwa [State.keyParams_rk, deriveSubkeys_flatten_length] at hi
  case rcon => rwa [State.keyParams_rcon, deriveRoundConsts8_flatten_length] at hi
  case mask => simpa [State.keyParams_mask] using hi
  all_goals exact absurd hi (Nat.not_lt_zero i)

theorem State.unchanged_regen {s : State} (h : s.MemForm) :
    Unchanged [.status] (regenElements s.rounds.toNat) s s.regen := by
  refine ⟨rfl, rfl, fun r hr => ?reg, fun m i houtside => ?mem⟩
  case reg =>
    cases r
    case status => simp at hr
    all_goals rfl
  case mem =>
    rw [State.regen_memOf, Memory.read_writeBytes_zero (h.wf m),
      if_neg fun hi => houtside (regenElements_of_lt_regenBytes_length hi)]

/-- An output after Regen changes STATUS, OLEN, the elements Regen writes and those of OBUF it fills. -/
theorem State.unchanged_regen_putOutput {s : State} (h : s.MemForm) (hrounds : s.RoundsOk) (bs : Bytes) :
    Unchanged [.status, .olen]
      (fun m i => regenElements s.rounds.toNat m i ∨ elementsOf .obuf 0 bs.length m i) s (s.regen.putOutput bs) :=
  ((State.unchanged_regen h).mono (by simp) fun _ _ => .inl).trans
    ((State.unchanged_putOutput (State.regen_memForm h hrounds) bs).mono (by simp) fun _ _ => .inr)

/-! ## Records of several rounds (10_state R36) -/

/-- TRACE takes the records of the listed rounds, one after another. -/
def State.putTraces (s : State) (record : Nat → RoundTrace) (rounds : List Nat) : State :=
  rounds.foldl (fun st r => st.putTrace r (record r)) s

theorem State.putTraces_eq_withTrace (s : State) (record : Nat → RoundTrace) (rounds : List Nat) :
    s.putTraces record rounds = s.withTrace (s.putTraces record rounds).trace := by
  induction rounds generalizing s with
  | nil => rfl
  | cons r rounds ih => exact ih (s.putTrace r (record r))

/-- Element `j` of TRACE is byte `j mod 48` of the record of round `j div 48`, for the rounds listed. -/
theorem State.putTraces_read {s : State} (h : s.trace.wf = true) {record : Nat → RoundTrace} {rounds : List Nat}
    (hrecord : ∀ r ∈ rounds, (record r).bytes.length = 48) (j : Nat) :
    (s.putTraces record rounds).trace.read j =
      if j / 48 ∈ rounds then (record (j / 48)).bytes.getD (j % 48) 0#8 else s.trace.read j := by
  induction rounds generalizing s with
  | nil => simp [State.putTraces]
  | cons r rounds ih =>
    have hrest := ih (s := s.putTrace r (record r)) (Memory.wf_writeBytes h _ _)
      fun r' hr' => hrecord r' (List.mem_cons_of_mem r hr')
    have hfirst : (s.putTrace r (record r)).trace.read j =
        if j / 48 = r then (record (j / 48)).bytes.getD (j % 48) 0#8 else s.trace.read j := by
      rw [State.putTrace_trace, Memory.read_writeBytes h, hrecord r List.mem_cons_self]
      by_cases hj : j / 48 = r
      · subst hj
        rw [if_pos rfl, if_pos (by omega), show j - 48 * (j / 48) = j % 48 by omega]
      · rw [if_neg hj, if_neg (by omega)]
    rw [State.putTraces, List.foldl_cons, ← State.putTraces, hrest, hfirst]
    by_cases hj : j / 48 = r <;> simp [hj]

theorem State.putTraces_slice {s : State} (h : s.trace.wf = true) {record : Nat → RoundTrace} {rounds : List Nat}
    (hrecord : ∀ r ∈ rounds, (record r).bytes.length = 48) {r : Nat} (hr : r ∈ rounds) :
    (s.putTraces record rounds).trace.slice (48 * r) 48 = (record r).bytes := by
  refine bytes_ext (by simp [hrecord r hr]) fun j hj => ?_
  have hj : j < 48 := by simpa using hj
  rw [byteAt, Memory.slice_getD _ _ _ _ hj, State.putTraces_read h hrecord, Nat.mul_add_div (by decide),
    Nat.div_eq_of_lt hj, Nat.add_zero, if_pos hr, Nat.mul_add_mod, Nat.mod_eq_of_lt hj, byteAt]

theorem State.unchanged_withTrace (s : State) {records : Memory} {touched : MemId → Nat → Prop}
    (h : ∀ i, ¬ touched .trace i → records.read i = s.trace.read i) :
    Unchanged [] touched s (s.withTrace records) := by
  refine ⟨rfl, rfl, fun r _ => ?_, fun m i hi => ?_⟩
  · cases r <;> rfl
  · cases m
    case trace => exact h i hi
    all_goals rfl

/-- Records of 48 bytes change the elements of their own rounds. -/
theorem State.unchanged_putTraces {s : State} (h : s.trace.wf = true) {record : Nat → RoundTrace} {rounds : List Nat}
    (hrecord : ∀ r ∈ rounds, (record r).bytes.length = 48) {touched : MemId → Nat → Prop}
    (htouched : ∀ i, i / 48 ∈ rounds → touched .trace i) :
    Unchanged [] touched s (s.putTraces record rounds) := by
  rw [State.putTraces_eq_withTrace]
  refine s.unchanged_withTrace fun i hi => ?_
  rw [State.putTraces_read h hrecord, if_neg fun hin => hi (htouched i hin)]

/-! ## The states between the rounds (R242, R243) -/

/-- The State after the inverse rounds `n − 1` downto `r`. -/
def invStates (p : RoundParams) : Nat → Bytes → Nat → Bytes
  | 0, b, _ => b
  | n + 1, b, r => if n < r then b else invStates p n (roundInv b n p) r

theorem invStates_self (p : RoundParams) (n : Nat) (b : Bytes) : invStates p n b n = b := by
  cases n with
  | zero => rfl
  | succ n => rw [invStates, if_pos (Nat.lt_succ_self n)]

theorem invStates_zero (p : RoundParams) (n : Nat) (b : Bytes) : invStates p n b 0 = invRounds p n b := by
  induction n generalizing b with
  | zero => rfl
  | succ n ih => rw [invStates, if_neg (Nat.not_lt_zero n), ih, invRounds]

/-- The inverse of round `r` is performed on the State after that of round `r + 1`. -/
theorem invStates_of_lt (p : RoundParams) {n r : Nat} (b : Bytes) (hr : r < n) :
    invStates p n b r = roundInv (invStates p n b (r + 1)) r p := by
  induction n generalizing b with
  | zero => exact absurd hr (Nat.not_lt_zero r)
  | succ n ih =>
    rw [invStates, invStates, if_neg (by omega)]
    by_cases hlast : r = n
    · subst hlast
      rw [invStates_self, if_pos (Nat.lt_succ_self r)]
    · rw [if_neg (by omega), ih _ (by omega)]

theorem invStates_length (p : RoundParams) (n : Nat) {b : Bytes} (hb : b.length = 8) (r : Nat) :
    (invStates p n b r).length = 8 := by
  induction n generalizing b with
  | zero => exact hb
  | succ n ih =>
    rw [invStates]
    split
    · exact hb
    · exact ih (roundInv_length b n p)

/-! ## The records of the rounds (43_round R213, R214) -/

/-- The records of a run upward are those of its states `x`. -/
theorem State.traceFwd_eq_putTraces (p : RoundParams) (x : Nat → Bytes) (n r : Nat) (s : State)
    (hx : ∀ j < r + n, x (j + 1) = roundFwd (x j) j p) :
    State.traceFwd p n r (x r) s = s.putTraces (fun j => roundFwdTrace (x j) j p) (List.range' r n) := by
  induction n generalizing r s with
  | zero => rfl
  | succ n ih =>
    rw [State.traceFwd, ← hx r (by omega), ih (r + 1) _ fun j hj => hx j (by omega)]
    rfl

/-- The records of a run downward are those of its states `x`. -/
theorem State.traceInv_eq_putTraces (p : RoundParams) (x : Nat → Bytes) (n : Nat) (s : State)
    (hx : ∀ j < n, x j = roundInv (x (j + 1)) j p) :
    State.traceInv p n (x n) s = s.putTraces (fun j => roundInvTrace (x (j + 1)) j p) (List.range n).reverse := by
  induction n generalizing s with
  | zero => rfl
  | succ n ih =>
    rw [State.traceInv, ← hx n (Nat.lt_succ_self n), ih _ fun j hj => hx j (Nat.lt_succ_of_lt hj), List.range_succ,
      List.reverse_concat]
    rfl

section Records

variable {p : RoundParams} {rounds r : Nat} (hp : p.Valid rounds) (hr : r < rounds) {b : Bytes} (hb : b.length = 8)
include hp hr hb

theorem RoundParams.Valid.roundFwdTrace_bytes_length : (roundFwdTrace b r p).bytes.length = 48 := by
  obtain ⟨_, _, hrow⟩ := hp
  obtain ⟨hrk, hrcon⟩ := hrow r hr
  simp [roundFwdTrace, RoundTrace.bytes, hrk, hrcon, hb]

theorem RoundParams.Valid.roundInvTrace_bytes_length : (roundInvTrace b r p).bytes.length = 48 := by
  obtain ⟨_, _, hrow⟩ := hp
  obtain ⟨hrk, hrcon⟩ := hrow r hr
  simp [roundInvTrace, RoundTrace.bytes, stInvSub, hrk, hrcon, hb]

end Records

/-- The record of round `r` that BLK.ENC writes. -/
def State.encRecord (s : State) (r : Nat) : RoundTrace :=
  roundFwdTrace (fwdRounds s.keyParams r 0 s.inputBlock) r s.keyParams

/-- The record of round `r` that BLK.DEC writes. -/
def State.decRecord (s : State) (r : Nat) : RoundTrace :=
  roundInvTrace (invStates s.keyParams s.rounds.toNat s.inputBlock (r + 1)) r s.keyParams

section BlockRecords

variable (s : State)

theorem State.keyParams_valid : s.keyParams.Valid s.rounds.toNat := deriveParams_valid ..

theorem State.encRecord_bytes_length : ∀ r < s.rounds.toNat, (s.encRecord r).bytes.length = 48 := fun _ hr =>
  have hp := s.keyParams_valid
  hp.roundFwdTrace_bytes_length hr (hp.fwdRounds_length (Nat.le_of_lt hr) s.inputBlock_length)

theorem State.decRecord_bytes_length : ∀ r < s.rounds.toNat, (s.decRecord r).bytes.length = 48 := fun r hr =>
  s.keyParams_valid.roundInvTrace_bytes_length hr (invStates_length _ _ s.inputBlock_length (r + 1))

end BlockRecords

/-! ## The commands -/

theorem State.traceCommand_blkEnc (s e : State) (traced : Bool) :
    s.traceCommand (.blkEnc traced) e =
      e.putTraces s.encRecord (if traced then List.range s.rounds.toNat else []) := by
  cases traced with
  | false => rfl
  | true =>
    have hrun := State.traceFwd_eq_putTraces s.keyParams (fun r => fwdRounds s.keyParams r 0 s.inputBlock)
      s.rounds.toNat 0 e fun r _ => fwdRounds_zero_succ ..
    rw [if_pos rfl, List.range_eq_range']
    exact hrun

theorem State.traceCommand_blkDec (s e : State) (traced : Bool) :
    s.traceCommand (.blkDec traced) e =
      e.putTraces s.decRecord (if traced then (List.range s.rounds.toNat).reverse else []) := by
  cases traced with
  | false => rfl
  | true =>
    have hrun := State.traceInv_eq_putTraces s.keyParams (invStates s.keyParams s.rounds.toNat s.inputBlock)
      s.rounds.toNat e fun r hr => invStates_of_lt _ _ hr
    rw [invStates_self] at hrun
    exact hrun

theorem State.blockChecks_pass {s : State} (hkey : s.KeyOk) (hrounds : s.RoundsOk) (hilen : s.ilen = 8#32) :
    ∀ c ∈ [s.checkKeylen, s.checkRounds, s.checkBlockLen], c = none := by
  simp [(s.checkKeylen_eq_none_iff).mpr hkey, (s.checkRounds_eq_none_iff).mpr hrounds,
    (s.checkBlockLen_eq_none_iff).mpr (by rw [hilen]; rfl)]

/-- What a block command leaves when it puts out `out` and the records of the listed rounds, which are all below ROUNDS
when it is traced and none when it is not. -/
theorem State.regen_putOutput_putTraces {s : State} (h : s.MemForm) (hrounds : s.RoundsOk) {out : Bytes}
    (hout : out.length = 8) {record : Nat → RoundTrace} (hrecord : ∀ r < s.rounds.toNat, (record r).bytes.length = 48)
    {traced : Bool} {rounds : List Nat} (hmem : ∀ r, r ∈ rounds ↔ traced = true ∧ r < s.rounds.toNat) :
    let t := ((s.regen.putOutput out).putTraces record rounds).complete
    t.obuf.slice 0 8 = out ∧
      (traced = true → ∀ r < s.rounds.toNat, t.trace.slice (48 * r) 48 = (record r).bytes) ∧
      t.olen = 8#32 ∧
      t.status = { s.status with
        done := true, sv := true, isv := true, pv := true, ipv := true, kv := true, cv := true } ∧
      Unchanged [.status, .olen]
        (fun m i => regenElements s.rounds.toNat m i ∨ elementsOf .obuf 0 8 m i ∨
          traceElements traced 0 s.rounds.toNat m i) s t := by
  intro t
  have hwf : (s.regen.putOutput out).trace.wf = true := h.wf .trace
  have hlisted : ∀ r ∈ rounds, (record r).bytes.length = 48 := fun r hr => hrecord r ((hmem r).mp hr).2
  have ht : t = ((s.regen.putOutput out).withTrace t.trace).complete :=
    congrArg State.complete (State.putTraces_eq_withTrace _ _ _)
  refine ⟨?obuf, fun htraced r hr => ?trace, ?olen, ?status, ?frame⟩
  case obuf =>
    have hslice := State.putOutput_slice (s := s.regen) (h.wf .obuf) out
    rw [hout] at hslice
    rw [ht]
    exact hslice
  case trace => exact State.putTraces_slice hwf hlisted ((hmem r).mpr ⟨htraced, hr⟩)
  case olen =>
    rw [ht]
    exact congrArg (BitVec.ofNat 32) hout
  case status =>
    rw [ht]
    rfl
  case frame =>
    have hput := State.unchanged_regen_putOutput h hrounds out
    have htraces := State.unchanged_putTraces hwf hlisted (touched := traceElements traced 0 s.rounds.toNat)
      fun i hi => by
        obtain ⟨htraced, hlt⟩ := (hmem _).mp hi
        exact ⟨htraced, rfl, by omega, by omega⟩
    rw [hout] at hput
    exact (((hput.mono (List.Subset.refl _) fun _ _ hi => hi.imp_right .inl).trans
      (htraces.mono (List.nil_subset _) fun _ _ hi => .inr (.inr hi))).with_status _).mono (by simp) fun _ _ => id

/-- Settles O38: the states between the rounds are those after the first rounds of `EncBlock`. -/
theorem blockEncryptionCompletes : Obligations.BlockEncryptionCompletes := by
  intro s traced herr hform hkey hrounds hilen n p
  have hexec := exec_completes (.blkEnc traced) nofun herr (State.blockChecks_pass hkey hrounds hilen)
  rw [State.traceCommand_blkEnc] at hexec
  have hout := encBlock_length s.cfg n s.keyMaterial s.inputBlock_length
  obtain ⟨hobuf, htrace, hleaves⟩ := State.regen_putOutput_putTraces hform hrounds hout s.encRecord_bytes_length
    (traced := traced) (rounds := if traced then List.range n else []) (by cases traced <;> simp [n])
  exact ⟨_, hexec, ⟨fun r => fwdRounds p r 0 s.inputBlock, rfl, fun r _ => fwdRounds_zero_succ ..,
    hobuf, rfl, htrace⟩, hleaves⟩

/-- Settles O39: the states between the rounds are those of `DecBlock`, from the input down. -/
theorem blockDecryptionCompletes : Obligations.BlockDecryptionCompletes := by
  intro s traced herr hform hkey hrounds hilen n p
  have hexec := exec_completes (.blkDec traced) nofun herr (State.blockChecks_pass hkey hrounds hilen)
  rw [State.traceCommand_blkDec] at hexec
  have hout := decBlock_length s.cfg n s.keyMaterial s.inputBlock_length
  obtain ⟨hobuf, htrace, hleaves⟩ := State.regen_putOutput_putTraces hform hrounds hout s.decRecord_bytes_length
    (traced := traced) (rounds := if traced then (List.range n).reverse else []) (by cases traced <;> simp [n])
  have hlast : invStates p n s.inputBlock 0 = decBlock s.cfg s.inputBlock n s.keyMaterial := invStates_zero ..
  exact ⟨_, hexec, ⟨invStates p n s.inputBlock, invStates_self .., fun r hr => invStates_of_lt p _ hr,
    hlast ▸ hobuf, hlast, htrace⟩, hleaves⟩

end Sys2Proof.Machine

/-! O41: what a composite command reads (44_block_engine R245; 10_state R37). States that agree on the operands make the
same checks, put out the same string and write the same records, into whatever their memories held. -/

namespace Sys2Proof.Machine

/-! ## What a written string reads back as -/

theorem Memory.slice_writeBytes_take {m : Memory} (h : m.wf = true) {bs : Bytes} {n : Nat} (hn : n ≤ bs.length) :
    (m.writeBytes 0 bs).slice 0 n = bs.take n := by
  have hpart := Memory.slice_drop_take (m.writeBytes 0 bs) 0 bs.length 0 n (by omega)
  rw [Memory.slice_writeBytes h, List.drop_zero] at hpart
  exact hpart.symm

/-- OLEN holds the length modulo 2^32, so it never points beyond the output. -/
theorem State.putOutput_outputBytes_take {s : State} (h : s.obuf.wf = true) (bs : Bytes) :
    (s.putOutput bs).outputBytes = bs.take (bs.length % 2 ^ 32) := by
  rw [State.outputBytes, State.putOutput_olen, BitVec.toNat_ofNat]
  exact Memory.slice_writeBytes_take h (Nat.mod_le _ _)

/-- An avalanche report has a count for every byte of its baseline: both runs have the padded length (46_avalanche
R293). -/
theorem avalanche_cnt_length (c : Config) (m k : Bytes) {iv : Bytes} (rounds : Nat) (target : FlipTarget) (i : Nat)
    (hiv : iv.length = 8) :
    (avalanche c m k iv rounds target i).cnt.length = (avalanche c m k iv rounds target i).base.length := by
  have hflip : (flippedCiphertext c m k iv rounds target i).length = (cbcEnc c m k iv rounds).length := by
    cases target <;> simp [flippedCiphertext, cbcEnc_length _ _ _ _ hiv, flipBit]
  simp [avalanche, compareRuns, bitCounts, hflip]

theorem State.putReport_cnt_slice {s : State} (h : s.cnt.wf = true) {a : AvalancheReport}
    (hlen : a.cnt.length = a.base.length) :
    (s.putReport a).cnt.slice 0 (s.putReport a).olen.toNat =
      (a.cnt.map (BitVec.ofNat 8)).take (a.base.length % 2 ^ 32) := by
  rw [State.putReport_olen, BitVec.toNat_ofNat, State.putReport_cnt]
  exact Memory.slice_writeBytes_take h (by rw [List.length_map, hlen]; exact Nat.mod_le _ _)

/-- The same records of the rounds below `n` read back the same, whatever TRACE held. -/
theorem State.putTraces_slice_eq {s u : State} (hs : s.trace.wf = true) (hu : u.trace.wf = true)
    {record : Nat → RoundTrace} {n : Nat} (hrecord : ∀ r < n, (record r).bytes.length = 48) {rounds : List Nat}
    (hmem : ∀ r, r ∈ rounds ↔ r < n) :
    (s.putTraces record rounds).trace.slice 0 (48 * n) = (u.putTraces record rounds).trace.slice 0 (48 * n) := by
  have hlisted : ∀ r ∈ rounds, (record r).bytes.length = 48 := fun r hr => hrecord r ((hmem r).mp hr)
  rw [Memory.slice_eq_iff]
  intro j hj
  have hin : (0 + j) / 48 ∈ rounds := (hmem _).mpr (by omega)
  rw [State.putTraces_read hs hlisted, State.putTraces_read hu hlisted, if_pos hin, if_pos hin]

/-! ## What a composite command puts out -/

/-- The string a composite command puts out; an avalanche analysis puts out its baseline (46_avalanche R295). -/
def State.compositeOutput (s : State) : Instr → Bytes
  | .blkEnc _ => encBlock s.cfg s.inputBlock s.rounds.toNat s.keyMaterial
  | .blkDec _ => decBlock s.cfg s.inputBlock s.rounds.toNat s.keyMaterial
  | .cbcEnc | .avalPt | .avalKey => s.cbcCiphertext
  | .cbcDec => s.cbcPlaintext.bytes
  | _ => []

theorem commandEffect_output {i : Instr} (hi : i ∈ compositeCommands) (s : State) :
    (commandEffect s i).olen = (s.putOutput (s.compositeOutput i)).olen ∧
      (commandEffect s i).outputBytes = (s.putOutput (s.compositeOutput i)).outputBytes := by
  rcases (mem_compositeCommands_iff i).mp hi with ⟨t, rfl⟩ | ⟨t, rfl⟩ | rfl | rfl | rfl | rfl <;> exact ⟨rfl, rfl⟩

theorem exists_commandEffect_eq_putReport {i : Instr} (hi : i ∈ [Instr.avalPt, .avalKey]) :
    ∃ target, ∀ s, commandEffect s i = s.regen.putReport (s.avalancheReport target) := by
  simp only [List.mem_cons, List.not_mem_nil, or_false] at hi
  rcases hi with rfl | rfl
  · exact ⟨.plaintext, fun _ => rfl⟩
  · exact ⟨.key, fun _ => rfl⟩

theorem commandEffect_trace_of_composite {i : Instr} (hi : i ∈ compositeCommands) (s : State) :
    (commandEffect s i).trace = s.trace := by
  rcases (mem_compositeCommands_iff i).mp hi with ⟨t, rfl⟩ | ⟨t, rfl⟩ | rfl | rfl | rfl | rfl <;> simp [commandEffect]

/-! ## States with the same operands -/

/-- The two states agree on what a composite command reads. -/
structure SameOperands (s u : State) : Prop where
  cfg : s.cfg = u.cfg
  keylen : s.keylen = u.keylen
  rounds : s.rounds = u.rounds
  ilen : s.ilen = u.ilen
  bitidx : s.bitidx = u.bitidx
  keyMaterial : s.keyMaterial = u.keyMaterial
  inputBytes : s.inputBytes = u.inputBytes
  ivBytes : s.ivBytes = u.ivBytes

namespace SameOperands

variable {s u : State} (h : SameOperands s u)
include h

theorem keyParams_eq : s.keyParams = u.keyParams := by
  rw [State.keyParams, State.keyParams, h.cfg, h.keyMaterial, h.rounds]

theorem cbcCiphertext_eq : s.cbcCiphertext = u.cbcCiphertext := by
  rw [State.cbcCiphertext, State.cbcCiphertext, h.cfg, h.inputBytes, h.keyMaterial, h.ivBytes, h.rounds]

theorem cbcPlaintext_eq : s.cbcPlaintext = u.cbcPlaintext := by
  rw [State.cbcPlaintext, State.cbcPlaintext, h.cfg, h.inputBytes, h.keyMaterial, h.ivBytes, h.rounds]

theorem avalancheReport_eq (target : FlipTarget) : s.avalancheReport target = u.avalancheReport target := by
  rw [State.avalancheReport, State.avalancheReport, h.cfg, h.inputBytes, h.keyMaterial, h.ivBytes, h.rounds, h.bitidx]

/-- An input of 8 bytes is the input block. -/
theorem inputBlock_eq (hcheck : s.checkBlockLen = none) : s.inputBlock = u.inputBlock := by
  have hilen := (s.checkBlockLen_eq_none_iff).mp hcheck
  have hin := h.inputBytes
  rwa [State.inputBytes, State.inputBytes, ← h.ilen, hilen] at hin

theorem commandChecks_eq {i : Instr} (hi : i ∈ compositeCommands) : commandChecks s i = commandChecks u i := by
  rcases (mem_compositeCommands_iff i).mp hi with ⟨t, rfl⟩ | ⟨t, rfl⟩ | rfl | rfl | rfl | rfl <;>
    simp only [commandChecks, State.checkKeylen, State.checkRounds, State.checkBlockLen, State.checkPadLen,
      State.checkInputLen, State.checkFormat, State.checkBitidx, h.cfg, h.keylen, h.rounds, h.ilen, h.bitidx,
      h.cbcPlaintext_eq]

theorem heldParams_eq (hs : s.MemForm) (hu : u.MemForm) {i : Instr} (hi : i ∈ compositeCommands) :
    (commandEffect s i).heldParams s.rounds.toNat = (commandEffect u i).heldParams s.rounds.toNat := by
  rw [(commandEffect_of_composite hi s _).1, (commandEffect_of_composite hi u _).1, State.regen_heldParams hs, h.rounds,
    State.regen_heldParams hu, h.keyParams_eq]

theorem compositeOutput_eq {i : Instr} (hpass : ∀ c ∈ commandChecks s i, c = none) :
    s.compositeOutput i = u.compositeOutput i := by
  cases i
  case blkEnc | blkDec =>
    have hblock := h.inputBlock_eq (hpass _ (by simp [commandChecks]))
    simp only [State.compositeOutput, h.cfg, hblock, h.rounds, h.keyMaterial]
  case cbcDec => exact congrArg UnpadResult.bytes h.cbcPlaintext_eq
  case cbcEnc | avalPt | avalKey => exact h.cbcCiphertext_eq
  all_goals rfl

theorem output_eq (hs : s.MemForm) (hu : u.MemForm) {i : Instr} (hi : i ∈ compositeCommands)
    (hpass : ∀ c ∈ commandChecks s i, c = none) :
    (commandEffect s i).olen = (commandEffect u i).olen ∧
      (commandEffect s i).outputBytes = (commandEffect u i).outputBytes := by
  obtain ⟨holen, hbytes⟩ := commandEffect_output hi s
  obtain ⟨holen', hbytes'⟩ := commandEffect_output hi u
  rw [holen, holen', hbytes, hbytes', ← h.compositeOutput_eq hpass, State.putOutput_outputBytes_take (hs.wf .obuf),
    State.putOutput_outputBytes_take (hu.wf .obuf)]
  exact ⟨rfl, rfl⟩

/-- A block command writes the same records, into whatever TRACE held. -/
theorem records_eq (hs : s.MemForm) (hu : u.MemForm) {i : Instr} (hi : i ∈ [Instr.blkEnc true, .blkDec true])
    (hpass : ∀ c ∈ commandChecks s i, c = none) (e e' : State) (he : e.trace = s.trace)
    (he' : e'.trace = u.trace) :
    (s.traceCommand i e).trace.slice 0 (48 * s.rounds.toNat) =
      (u.traceCommand i e').trace.slice 0 (48 * s.rounds.toNat) := by
  have hwf : e.trace.wf = true := he ▸ hs.wf .trace
  have hwf' : e'.trace.wf = true := he' ▸ hu.wf .trace
  simp only [List.mem_cons, List.not_mem_nil, or_false] at hi
  rcases hi with rfl | rfl
  case inl =>
    have hblock := h.inputBlock_eq (hpass _ (by simp [commandChecks]))
    have hrecord : s.encRecord = u.encRecord := by
      funext r
      rw [State.encRecord, State.encRecord, h.keyParams_eq, hblock]
    rw [State.traceCommand_blkEnc, State.traceCommand_blkEnc, ← hrecord, ← h.rounds]
    exact State.putTraces_slice_eq hwf hwf' s.encRecord_bytes_length (by simp)
  case inr =>
    have hblock := h.inputBlock_eq (hpass _ (by simp [commandChecks]))
    have hrecord : s.decRecord = u.decRecord := by
      funext r
      rw [State.decRecord, State.decRecord, h.keyParams_eq, h.rounds, hblock]
    rw [State.traceCommand_blkDec, State.traceCommand_blkDec, ← hrecord, ← h.rounds]
    exact State.putTraces_slice_eq hwf hwf' s.decRecord_bytes_length (by simp)

/-- An avalanche analysis reports the same counts and registers. -/
theorem report_eq (hs : s.MemForm) (hu : u.MemForm) {i : Instr} (hi : i ∈ [Instr.avalPt, .avalKey]) :
    let e := commandEffect s i
    let e' := commandEffect u i
    e.cnt.slice 0 e.olen.toNat = e'.cnt.slice 0 e.olen.toNat ∧ e.avDiff = e'.avDiff ∧ e.avTotal = e'.avTotal ∧
      e.avPct = e'.avPct := by
  obtain ⟨target, heffect⟩ := exists_commandEffect_eq_putReport hi
  have hlen : (s.avalancheReport target).cnt.length = (s.avalancheReport target).base.length :=
    avalanche_cnt_length _ _ _ _ _ _ s.ivBytes_length
  rw [heffect s, heffect u, ← h.avalancheReport_eq target]
  exact ⟨(State.putReport_cnt_slice (s := s.regen) (hs.wf .cnt) hlen).trans
    (State.putReport_cnt_slice (s := u.regen) (hu.wf .cnt) hlen).symm, rfl, rfl, rfl⟩

end SameOperands

/-- Settles O41: either the same check fails in both states, or both complete with the results of the operands. -/
theorem compositeCommandsAreStateless : Obligations.CompositeCommandsAreStateless := by
  intro i hi s u hserr huerr hs hu hcfg hkeylen hrounds hilen hbitidx hkey hinput hiv
  have h : SameOperands s u := ⟨hcfg, hkeylen, hrounds, hilen, hbitidx, hkey, hinput, hiv⟩
  have hne := ne_sysRst_of_composite hi
  cases hfail : firstFailure (commandChecks s i) with
  | some f =>
    have hfail' := hfail
    rw [h.commandChecks_eq hi] at hfail'
    obtain ⟨pre, post, hchecks, _⟩ := (firstFailure_eq_some_iff _ f).mp hfail
    have hraise : f.code ≠ .noFault := commandChecks_raisesFault s i (some f) (by simp [hchecks]) f rfl
    exact ⟨_, _, exec_faults i hne hserr hfail, exec_faults i hne huerr hfail', rfl, fun _ => rfl,
      fun hok => absurd hok hraise⟩
  | none =>
    have hpass := (firstFailure_eq_none_iff _).mp hfail
    have hpass' := hpass
    rw [h.commandChecks_eq hi] at hpass'
    have herr := (commandEffect_frame s i).err.trans hserr
    have herr' := (commandEffect_frame u i).err.trans huerr
    have hheld := h.heldParams_eq hs hu hi
    obtain ⟨holen, hbytes⟩ := h.output_eq hs hu hi hpass
    refine ⟨_, _, exec_completes_withTrace i hne hserr hpass, exec_completes_withTrace i hne huerr hpass',
      herr.trans herr'.symm, fun hbad => absurd herr hbad, fun _ => ⟨holen, hbytes, congrArg RoundParams.sbox hheld,
        congrArg RoundParams.isbox hheld, congrArg RoundParams.pbox hheld, congrArg RoundParams.ipbox hheld,
        congrArg RoundParams.rk hheld, congrArg RoundParams.rcon hheld, congrArg RoundParams.mask hheld,
        fun hblock => ?records, fun haval => ?report⟩⟩
    case records =>
      exact h.records_eq hs hu hblock hpass _ _ (commandEffect_trace_of_composite hi s)
        (commandEffect_trace_of_composite hi u)
    case report => exact h.report_eq hs hu haval

end Sys2Proof.Machine

/-! O42: the padding of 45_cbc R261 and R265. `Unpad` reads the last byte alone, and the last byte of a padded string is
the number of bytes appended. -/

namespace Sys2Proof.Machine

theorem pad_take (m : Bytes) : (pad m).take m.length = m := by
  rw [pad, List.take_left]

/-- Every appended byte holds how many were appended (R261). -/
theorem pad_getD {m : Bytes} {j : Nat} (hj : m.length ≤ j) (hlt : j < (pad m).length) :
    (pad m).getD j 0#8 = BitVec.ofNat 8 (8 - m.length % 8) := by
  rw [pad_length] at hlt
  rw [pad, List.getD_append_right _ _ _ _ hj, List.getD_replicate _ (by omega)]

section Unpad

variable {b : Bytes} {p : Byte} (hlast : b.getD (b.length - 1) 0#8 = p)
include hlast

theorem unpad_eq_invalid (hp : p.toNat = 0 ∨ b.length < p.toNat) : unpad b = .invalid p := by
  have hzero : p = 0#8 ∨ b.length < p.toNat := hp.imp_left BitVec.eq_of_toNat_eq
  simp only [unpad, byteAt, hlast, if_pos hzero]

theorem unpad_eq_ok (hpos : 1 ≤ p.toNat) (hle : p.toNat ≤ b.length) :
    unpad b = .ok (b.take (b.length - p.toNat)) := by
  have hgood : ¬(p = 0#8 ∨ b.length < p.toNat) := by
    rintro (rfl | hlt)
    · exact absurd hpos (by decide)
    · omega
  simp only [unpad, byteAt, hlast, if_neg hgood]

end Unpad

/-- `Unpad` undoes `Pad` (R265). -/
theorem unpad_pad (m : Bytes) : unpad (pad m) = .ok m := by
  have hlen := pad_length m
  have hlast : (pad m).getD ((pad m).length - 1) 0#8 = BitVec.ofNat 8 (8 - m.length % 8) :=
    pad_getD (by omega) (by omega)
  have hp : (BitVec.ofNat 8 (8 - m.length % 8)).toNat = 8 - m.length % 8 := by
    rw [BitVec.toNat_ofNat]; omega
  rw [unpad_eq_ok hlast (by omega) (by omega), hp, hlen, Nat.add_sub_cancel, pad_take]

/-- Settles O42: the bytes of `Pad`, and the two cases of `Unpad` on a string with a last byte. -/
theorem paddingRule : Obligations.PaddingRule := by
  intro m
  refine ⟨⟨8 - m.length % 8, by omega, by omega, rfl, by omega, pad_length m, pad_take m, fun j hj hlt => ?byte⟩,
    pad_length_eq m, unpad_pad m, fun b => ?unpad⟩
  case byte => exact pad_getD hj (by rwa [pad_length])
  case unpad =>
    have hlen : (m ++ [b]).length = m.length + 1 := List.length_append
    have hlast : (m ++ [b]).getD ((m ++ [b]).length - 1) 0#8 = b := by simp
    refine ⟨fun hbad => unpad_eq_invalid hlast (by rwa [hlen]), fun hpos hle => ?_⟩
    rw [unpad_eq_ok hlast hpos (by rwa [hlen]), hlen, List.take_append_of_le_length (by omega)]

end Sys2Proof.Machine

/-! O43, O44 and O47: chaining (45_cbc R263, R264) as one rule for each block. A block is chained to the ciphertext
block before it in both directions, so the laws of the chain are those of one block. -/

namespace Sys2Proof.Machine

/-! ## Blocks of a string -/

/-- Block `n` of a string. -/
def blockAt (s : Bytes) (n : Nat) : Bytes := (s.drop (8 * n)).take 8

/-- What block `n` is chained to: the ciphertext block before it, the IV for the first (R263, R264). -/
def chainedTo (iv ct : Bytes) : Nat → Bytes
  | 0 => iv
  | n + 1 => blockAt ct n

theorem blockAt_length {s : Bytes} {n : Nat} (h : 8 * (n + 1) ≤ s.length) : (blockAt s n).length = 8 := by
  rw [blockAt, List.length_take, List.length_drop]; omega

theorem chainedTo_length {iv ct : Bytes} (hiv : iv.length = 8) {n : Nat} (h : 8 * n ≤ ct.length) :
    (chainedTo iv ct n).length = 8 := by
  cases n with
  | zero => exact hiv
  | succ n => exact blockAt_length h

theorem blocks8_flatten {n : Nat} {s : Bytes} (h : s.length = 8 * n) : (blocks8 n s).flatten = s := by
  induction n generalizing s with
  | zero => exact (List.eq_nil_of_length_eq_zero h).symm
  | succ n ih => rw [blocks8, List.flatten_cons, ih (by rw [List.length_drop]; omega), List.take_append_drop]

/-- Strings of whole blocks are equal when their blocks are. -/
theorem bytes_ext_blockAt {s t : Bytes} {n : Nat} (hs : s.length = 8 * n) (ht : t.length = 8 * n)
    (h : ∀ i < n, blockAt s i = blockAt t i) : s = t := by
  rw [← blocks8_flatten hs, ← blocks8_flatten ht]
  congr 1
  refine List.ext_getElem (by simp) fun i hi _ => ?_
  rw [blocks8_getElem, blocks8_getElem]
  exact h i (by rwa [blocks8_length] at hi)

section Append

variable {x : Bytes} (hx : x.length = 8) (rest : Bytes) (n : Nat)
include hx

theorem blockAt_append_zero : blockAt (x ++ rest) 0 = x := by
  rw [blockAt, Nat.mul_zero, List.drop_zero, List.take_left' hx]

theorem blockAt_append_succ : blockAt (x ++ rest) (n + 1) = blockAt rest n := by
  rw [blockAt, blockAt, Nat.mul_succ, Nat.add_comm, ← List.drop_drop, List.drop_left' hx]

/-- A first block is what the rest of the string is chained to. -/
theorem chainedTo_append_succ (iv : Bytes) : chainedTo iv (x ++ rest) (n + 1) = chainedTo x rest n := by
  cases n with
  | zero => exact blockAt_append_zero hx rest
  | succ n => exact blockAt_append_succ hx rest n

end Append

/-! ## The rule of a block (R263, R264) -/

section Chain

variable {f : Bytes → Bytes} (hf : ∀ b, b.length = 8 → (f b).length = 8)
include hf

theorem cbcEncFrom_blockAt {bs : List Bytes} (hbs : ∀ b ∈ bs, b.length = 8) {prev : Bytes} (hprev : prev.length = 8)
    {n : Nat} (hn : n < bs.length) :
    blockAt (cbcEncFrom f bs prev) n = f (xorBytes bs[n] (chainedTo prev (cbcEncFrom f bs prev) n)) := by
  induction bs generalizing prev n with
  | nil => exact absurd hn (Nat.not_lt_zero n)
  | cons b bs ih =>
    obtain ⟨hb, hbs⟩ := List.forall_mem_cons.mp hbs
    have hfirst : (f (xorBytes b prev)).length = 8 := hf _ (by rw [xorBytes_length, hb, hprev, Nat.min_self])
    rw [cbcEncFrom]
    cases n with
    | zero => exact blockAt_append_zero hfirst _
    | succ n =>
      rw [blockAt_append_succ hfirst, chainedTo_append_succ hfirst, List.getElem_cons_succ]
      exact ih hbs hfirst (Nat.lt_of_succ_lt_succ hn)

theorem cbcDecFrom_blockAt {bs : List Bytes} (hbs : ∀ b ∈ bs, b.length = 8) {prev : Bytes} (hprev : prev.length = 8)
    {n : Nat} (hn : n < bs.length) :
    blockAt (cbcDecFrom f bs prev) n = xorBytes (f bs[n]) (chainedTo prev bs.flatten n) := by
  induction bs generalizing prev n with
  | nil => exact absurd hn (Nat.not_lt_zero n)
  | cons b bs ih =>
    obtain ⟨hb, hbs⟩ := List.forall_mem_cons.mp hbs
    have hfirst : (xorBytes (f b) prev).length = 8 := by rw [xorBytes_length, hf b hb, hprev, Nat.min_self]
    rw [cbcDecFrom, List.flatten_cons]
    cases n with
    | zero => exact blockAt_append_zero hfirst _
    | succ n =>
      rw [blockAt_append_succ hfirst, chainedTo_append_succ hb, List.getElem_cons_succ]
      exact ih hbs hb (Nat.lt_of_succ_lt_succ hn)

end Chain

section Cbc

variable (c : Config) (m k : Bytes) {ct iv : Bytes} (rounds : Nat) (hiv : iv.length = 8)

include hiv in
theorem cbcEnc_blockAt {n : Nat} (hn : n < m.length / 8 + 1) :
    blockAt (cbcEnc c m k iv rounds) n =
      encBlock c (xorBytes (blockAt (pad m) n) (chainedTo iv (cbcEnc c m k iv rounds) n)) rounds k := by
  have hcount : (pad m).length / 8 = m.length / 8 + 1 := by rw [pad_length_eq]; omega
  have hblocks := blocks8_mem_length ((pad m).length / 8) (pad m) (Nat.mul_div_le _ 8)
  have hblock := cbcEncFrom_blockAt (fun b => encBlock_length c rounds k) hblocks hiv (n := n)
    (by rwa [blocks8_length, hcount])
  rwa [blocks8_getElem] at hblock

include hiv in
theorem cbcDecRaw_blockAt (hct : ct.length % 8 = 0) {n : Nat} (hn : n < ct.length / 8) :
    blockAt (cbcDecRaw c ct k iv rounds) n =
      xorBytes (decBlock c (blockAt ct n) rounds k) (chainedTo iv ct n) := by
  have hblocks := blocks8_mem_length (ct.length / 8) ct (Nat.mul_div_le _ 8)
  have hblock := cbcDecFrom_blockAt (fun b => decBlock_length c rounds k) hblocks hiv (n := n)
    (by rwa [blocks8_length])
  rwa [blocks8_getElem, blocks8_flatten (by omega)] at hblock

/-! ## The round trip (R271, R272) -/

theorem decBlock_encBlock {b : Bytes} (hb : b.length = 8) : decBlock c (encBlock c b rounds k) rounds k = b :=
  (deriveParams_valid c k rounds).invRounds_fwdRounds (Nat.le_refl rounds) hb

include hiv in
/-- Each ciphertext block decrypts to its plaintext block XORed with what both are chained to. -/
theorem cbcDecRaw_cbcEnc : cbcDecRaw c (cbcEnc c m k iv rounds) k iv rounds = pad m := by
  have hlen := cbcEnc_length c m k rounds hiv
  have hraw := cbcDecRaw_length c (ct := cbcEnc c m k iv rounds) k rounds hiv (by omega)
  refine bytes_ext_blockAt (hraw.trans hlen) (pad_length_eq m) fun n hn => ?_
  have hplain : (blockAt (pad m) n).length = 8 := blockAt_length (by rw [pad_length_eq]; omega)
  have hchain : (chainedTo iv (cbcEnc c m k iv rounds) n).length = 8 := chainedTo_length hiv (by omega)
  rw [cbcDecRaw_blockAt c k rounds hiv (by omega) (by omega), cbcEnc_blockAt c m k rounds hiv hn,
    decBlock_encBlock c k rounds (by rw [xorBytes_length, hplain, hchain, Nat.min_self]),
    xorBytes_xorBytes _ _ (hplain.trans hchain.symm)]

include hiv in
theorem cbcDec_cbcEnc : cbcDec c (cbcEnc c m k iv rounds) k iv rounds = .ok m := by
  have hlen := cbcEnc_length c m k rounds hiv
  rw [cbcDec, if_neg (by omega), cbcDecRaw_cbcEnc c m k rounds hiv, unpad_pad]
  rfl

include hiv in
theorem cbcEnc_length_of_whole_blocks (hm : m.length % 8 = 0) :
    (cbcEnc c m k iv rounds).length = m.length + 8 := by
  rw [cbcEnc_length c m k rounds hiv]; omega

end Cbc

/-- Settles O43: the padded length, and the round trip of the empty message. -/
theorem paddingEdgeCase : Obligations.PaddingEdgeCase := fun c k _ rounds hiv _ =>
  ⟨fun m hm => cbcEnc_length_of_whole_blocks c m k rounds hiv hm, cbcDec_cbcEnc c [] k rounds hiv⟩

/-- The laws of 00_scope R10, each proved above for every parameter set. -/
theorem structuralLaws (c : Config) : StructuralLaws c where
  bijections k := ⟨sboxGen_isBijection c k, pboxGen_isBijection c k⟩
  roundInverse k s rounds r hr hs := (roundInverseLaw _ rounds r s (deriveParams_valid c k rounds) hr hs).1
  nibbleShuffle _ s _ _ := stNibShuf_stNibShuf s _
  blockRoundTrip _ k rounds hb _ := decBlock_encBlock c k rounds hb
  cbcRoundTrip m k _ rounds hiv _ := cbcDec_cbcEnc c m k rounds hiv
  paddingEdge m k _ rounds hiv _ hm := cbcEnc_length_of_whole_blocks c m k rounds hiv hm

/-! ## Another IV (R264, R268) -/

/-- Only the first raw block reads the IV. -/
theorem cbcDecRaw_eq_append (c : Config) {ct : Bytes} (k : Bytes) (rounds : Nat) (hct : 8 ≤ ct.length) :
    ∃ rest, ∀ iv, cbcDecRaw c ct k iv rounds = xorBytes (decBlock c (blockAt ct 0) rounds k) iv ++ rest := by
  obtain ⟨n, hn⟩ : ∃ n, ct.length / 8 = n + 1 := ⟨ct.length / 8 - 1, by omega⟩
  refine ⟨cbcDecFrom (fun b => decBlock c b rounds k) (blocks8 n (ct.drop 8)) (ct.take 8), fun iv => ?_⟩
  rw [cbcDecRaw, hn]
  rfl

/-- Exchanging one operand of an XOR for another is XOR with the difference of the two. -/
theorem xorBytes_exchange {s t u : Bytes} (ht : s.length = t.length) (hu : s.length = u.length) :
    xorBytes s u = xorBytes (xorBytes s t) (xorBytes t u) := by
  have hst : (xorBytes s t).length = (xorBytes t u).length := by simp [← ht, ← hu]
  refine bytes_ext (by simp [← ht, ← hu]) fun i _ => ?_
  rw [byteAt_xorBytes _ _ hu, byteAt_xorBytes _ _ hst, byteAt_xorBytes _ _ ht, byteAt_xorBytes _ _ (ht.symm.trans hu),
    BitVec.xor_assoc, ← BitVec.xor_assoc (byteAt t i), BitVec.xor_self, BitVec.zero_xor]

/-- Settles O47: the raw decryption is the first block XORed with the IV, and a rest that does not read the IV. -/
theorem wrongIvCorruptsFirstBlockOnly : Obligations.WrongIvCorruptsFirstBlockOnly := by
  intro c ct k iv iv' rounds hiv hiv' hpos hct
  have hblock : (decBlock c (blockAt ct 0) rounds k).length = 8 :=
    decBlock_length c rounds k (blockAt_length (by omega))
  have hfirst : ∀ v : Bytes, v.length = 8 → (xorBytes (decBlock c (blockAt ct 0) rounds k) v).length = 8 := by
    intro v hv
    rw [xorBytes_length, hblock, hv, Nat.min_self]
  obtain ⟨rest, hraw⟩ := cbcDecRaw_eq_append c (ct := ct) k rounds (by omega)
  rw [hraw iv, hraw iv', List.drop_left' (hfirst iv hiv), List.drop_left' (hfirst iv' hiv'),
    List.take_left' (hfirst iv hiv), List.take_left' (hfirst iv' hiv')]
  exact ⟨rfl, xorBytes_exchange (hblock.trans hiv.symm) (hblock.trans hiv'.symm)⟩

end Sys2Proof.Machine

/-! O44 to O46: the commands CBC.ENC and CBC.DEC (45_cbc R269, R270). Each runs Regen and puts out one string; what that
leaves is said once, for any string. -/

namespace Sys2Proof.Machine

/-! ## Blocks of a memory -/

theorem Memory.blockAt_slice (m : Memory) {n len : Nat} (h : 8 * (n + 1) ≤ len) :
    blockAt (m.slice 0 len) n = m.slice (8 * n) 8 := by
  rw [blockAt, Memory.slice_drop_take m 0 len (8 * n) 8 (by omega), Nat.zero_add]

theorem Memory.chainedTo_slice (iv : Bytes) (m : Memory) {n len : Nat} (h : 8 * n ≤ len) :
    chainedTo iv (m.slice 0 len) n = if n = 0 then iv else m.slice (8 * (n - 1)) 8 := by
  cases n with
  | zero => rfl
  | succ n => exact m.blockAt_slice h

/-! ## One string put out after Regen -/

/-- What a CBC command leaves when it puts out `out`. -/
theorem State.regen_putOutput_complete {s : State} (h : s.MemForm) (hrounds : s.RoundsOk) {out : Bytes}
    (hout : out.length < 2 ^ 32) :
    let t := (s.regen.putOutput out).complete
    t.olen.toNat = out.length ∧ t.obuf.slice 0 out.length = out ∧
      t.status = { s.status with
        done := true, sv := true, isv := true, pv := true, ipv := true, kv := true, cv := true } ∧
      Unchanged [.status, .olen]
        (fun m i => regenElements s.rounds.toNat m i ∨ elementsOf .obuf 0 out.length m i) s t := by
  intro t
  refine ⟨?olen, State.putOutput_slice (s := s.regen) (h.wf .obuf) out, rfl, ?frame⟩
  case olen =>
    rw [State.complete_olen, State.putOutput_olen, BitVec.toNat_ofNat, Nat.mod_eq_of_lt hout]
  case frame =>
    exact ((State.unchanged_regen_putOutput h hrounds out).with_status _).mono (by simp) fun _ _ => id

/-! ## When the commands complete -/

section Commands

variable {s : State} (herr : s.status.err = .noFault) (hkey : s.KeyOk) (hrounds : s.RoundsOk)
include herr hkey hrounds

theorem exec_cbcEnc (hilen : s.ilen.toNat + 8 ≤ s.cfg.bufCap) :
    exec .cbcEnc s = .next (s.regen.putOutput s.cbcCiphertext).complete :=
  exec_completes .cbcEnc nofun herr (by
    simp [commandChecks, (s.checkKeylen_eq_none_iff).mpr hkey, (s.checkRounds_eq_none_iff).mpr hrounds,
      (s.checkPadLen_eq_none_iff).mpr hilen])

variable (hilen : s.ilen.toNat ≤ s.cfg.bufCap) (hpos : 0 < s.ilen.toNat) (hwhole : s.ilen.toNat % 8 = 0)
include hilen hpos hwhole

omit herr in
/-- The checks of CBC.DEC before the one on the pad pass. -/
theorem firstFailure_commandChecks_cbcDec :
    firstFailure (commandChecks s .cbcDec) = firstFailure [s.cbcPlaintext.check] := by
  rw [commandChecks, (s.checkKeylen_eq_none_iff).mpr hkey, (s.checkRounds_eq_none_iff).mpr hrounds,
    (s.checkInputLen_eq_none_iff).mpr hilen, (s.checkFormat_eq_none_iff).mpr ⟨hpos, hwhole⟩]
  rfl

theorem exec_cbcDec_ok {m : Bytes} (hplain : s.cbcPlaintext = .ok m) :
    exec .cbcDec s = .next (s.regen.putOutput m).complete := by
  have hpass := firstFailure_commandChecks_cbcDec hkey hrounds hilen hpos hwhole
  rw [hplain] at hpass
  have heffect : commandEffect s .cbcDec = s.regen.putOutput m :=
    congrArg (fun r => s.regen.putOutput (UnpadResult.bytes r)) hplain
  rw [exec_completes .cbcDec nofun herr ((firstFailure_eq_none_iff _).mp hpass), heffect]
  rfl

theorem exec_cbcDec_invalid {p : Byte} (hplain : s.cbcPlaintext = .invalid p) :
    exec .cbcDec s = .next (s.takeFault .badPad (BitVec.ofNat 32 p.toNat)) := by
  have hfail := firstFailure_commandChecks_cbcDec hkey hrounds hilen hpos hwhole
  rw [hplain] at hfail
  rw [exec_faults .cbcDec nofun herr hfail, BitVec.ofNat_toNat]

end Commands

/-! ## The commands -/

/-- The decryption of the input buffer before `Unpad` (R264, R270). -/
def State.cbcRaw (s : State) : Bytes :=
  cbcDecRaw s.cfg s.inputBytes s.keyMaterial s.ivBytes s.rounds.toNat

theorem State.cbcPlaintext_eq_unpad (s : State) : s.cbcPlaintext = unpad s.cbcRaw := rfl

section Raw

variable {s : State} (hwhole : s.ilen.toNat % 8 = 0)
include hwhole

theorem State.cbcRaw_length : s.cbcRaw.length = s.ilen.toNat := by
  rw [State.cbcRaw, cbcDecRaw_length _ _ _ s.ivBytes_length (by rwa [State.inputBytes_length]), State.inputBytes_length]

theorem State.cbcRaw_blockAt {n : Nat} (hn : n < s.ilen.toNat / 8) :
    blockAt s.cbcRaw n =
      xorBytes (decBlock s.cfg (s.ibuf.slice (8 * n) 8) s.rounds.toNat s.keyMaterial)
        (if n = 0 then s.iv.slice 0 8 else s.ibuf.slice (8 * (n - 1)) 8) := by
  have hin := s.inputBytes_length
  rw [State.cbcRaw, cbcDecRaw_blockAt _ _ _ s.ivBytes_length (by rwa [hin]) (by rwa [hin]), State.inputBytes,
    Memory.blockAt_slice _ (by omega), Memory.chainedTo_slice _ _ (by omega), State.ivBytes]

end Raw

/-- A ciphertext fits in OBUF and its length in OLEN when the check of CBC.ENC passes (R269). -/
theorem State.cbcCiphertext_fits {s : State} (hvalid : s.cfg.valid = true)
    (hilen : s.ilen.toNat + 8 ≤ s.cfg.bufCap) :
    s.cbcCiphertext.length ≤ s.cfg.bufCap ∧ s.cbcCiphertext.length < 2 ^ 32 := by
  obtain ⟨_, hcap⟩ := Config.bufCap_bounds hvalid
  rw [State.cbcCiphertext_length]
  omega

/-- Settles O45: OBUF holds the ciphertext, whose blocks follow the rule of the chain. -/
theorem cbcEncCompletes : Obligations.CbcEncCompletes := by
  intro s hvalid herr hform hkey hrounds hilen blocks
  obtain ⟨holen, hobuf, hstatus, hframe⟩ :=
    State.regen_putOutput_complete hform hrounds (State.cbcCiphertext_fits hvalid hilen).2
  rw [s.cbcCiphertext_length] at holen hobuf hframe
  refine ⟨_, exec_cbcEnc herr hkey hrounds hilen, holen, fun n hn => ?block, hstatus, hframe⟩
  have hblock := cbcEnc_blockAt s.cfg s.inputBytes s.keyMaterial s.rounds.toNat s.ivBytes_length
    (n := n) (by rwa [State.inputBytes_length])
  rw [← State.cbcCiphertext, ← hobuf, Memory.blockAt_slice _ (by omega),
    Memory.chainedTo_slice _ _ (by omega)] at hblock
  exact hblock

/-- Settles O46: the raw decryption follows the rule of the chain, and its last byte decides as `Unpad` says. -/
theorem cbcDecCompletes : Obligations.CbcDecCompletes := by
  intro s herr hform hkey hrounds hilen hpos hwhole
  have hraw := State.cbcRaw_length hwhole
  have hlast : s.cbcRaw.getD (s.cbcRaw.length - 1) 0#8 = s.cbcRaw.getD (s.ilen.toNat - 1) 0#8 := by rw [hraw]
  refine ⟨s.cbcRaw, hraw, fun n hn => State.cbcRaw_blockAt hwhole hn, ?_⟩
  intro p
  refine ⟨fun hp hle => ?good, fun hbad => ?bad⟩
  case good =>
    have hplain := s.cbcPlaintext_eq_unpad.trans (unpad_eq_ok hlast hp (by rwa [hraw]))
    rw [hraw] at hplain
    have hlen : (s.cbcRaw.take (s.ilen.toNat - p)).length = s.ilen.toNat - p := List.length_take_of_le (by omega)
    have hlt := s.ilen.isLt
    have hleaves := State.regen_putOutput_complete hform hrounds (out := s.cbcRaw.take (s.ilen.toNat - p)) (by omega)
    rw [hlen] at hleaves
    exact ⟨_, exec_cbcDec_ok herr hkey hrounds hilen hpos hwhole hplain, hleaves⟩
  case bad =>
    have hplain := s.cbcPlaintext_eq_unpad.trans (unpad_eq_invalid hlast (by rwa [hraw]))
    exact exec_cbcDec_invalid herr hkey hrounds hilen hpos hwhole hplain

/-- Settles O44: `Unpad` gives the message back from the raw decryption of its ciphertext, on the machine as well. -/
theorem cbcRoundTrip : Obligations.CbcRoundTrip := by
  refine ⟨fun c m k iv rounds hiv _ => cbcDec_cbcEnc c m k rounds hiv, ?machine, structuralLaws⟩
  intro s u hvalid herr hform hkey hrounds hilen hcfg huerr huform hkeylen hmaterial hr hiv
  obtain ⟨hfits, hlt⟩ := State.cbcCiphertext_fits hvalid hilen
  obtain ⟨holen, hobuf, _, _⟩ := State.regen_putOutput_complete hform hrounds hlt
  refine ⟨_, exec_cbcEnc herr hkey hrounds hilen, fun huilen huinput => ?_⟩
  have hct : u.inputBytes = s.cbcCiphertext := by
    rw [huinput, State.outputBytes, holen, hobuf]
  have hlen : u.ilen.toNat = s.cbcCiphertext.length := by rw [← hct, State.inputBytes_length]
  have hplain : u.cbcPlaintext = .ok s.inputBytes := by
    rw [State.cbcPlaintext_eq_unpad, State.cbcRaw, hct, hcfg, hmaterial, hr, hiv, State.cbcCiphertext,
      cbcDecRaw_cbcEnc _ _ _ _ s.ivBytes_length, unpad_pad]
  have hblocks := s.cbcCiphertext_length
  have hukey : u.KeyOk := by rwa [State.KeyOk, hkeylen, hcfg]
  have hurounds : u.RoundsOk := by rwa [State.RoundsOk, hr, hcfg]
  have hbound : s.inputBytes.length < 2 ^ 32 := by rw [State.inputBytes_length]; exact s.ilen.isLt
  obtain ⟨hvolen, hvobuf, _, _⟩ := State.regen_putOutput_complete huform hurounds hbound
  refine ⟨_, exec_cbcDec_ok huerr hukey hurounds (by rwa [hlen, hcfg]) (by omega) (by omega) hplain, ?olen, ?bytes⟩
  case olen => exact BitVec.eq_of_toNat_eq (hvolen.trans s.inputBytes_length)
  case bytes => rw [State.outputBytes, hvolen, hvobuf]

end Sys2Proof.Machine

/-! O48 to O50: one bit flipped (46_avalanche R291) and what the report on it counts (R292 to R294). The flip leaves the
blocks before its own alone, so two chains agree up to that block. -/

namespace Sys2Proof.Machine

/-! ## One bit flipped (R291) -/

@[simp] theorem flipBit_length (s : Bytes) (i : Nat) : (flipBit s i).length = s.length := List.length_set ..

/-- The mask of R291 is a power of two. -/
theorem flipBit_eq_set (s : Bytes) (i : Nat) :
    flipBit s i = s.set (i / 8) (byteAt s (i / 8) ^^^ BitVec.twoPow 8 (7 - i % 8)) := rfl

section FlipBit

variable {s : Bytes} {i : Nat} (hi : i < 8 * s.length)
include hi

theorem byteAt_flipBit (j : Nat) :
    byteAt (flipBit s i) j = if j = i / 8 then byteAt s j ^^^ BitVec.twoPow 8 (7 - i % 8) else byteAt s j := by
  have hbyte : i / 8 < s.length := by omega
  rw [flipBit_eq_set, byteAt, List.getD_eq_getElem?_getD, List.getElem?_set, if_pos hbyte]
  by_cases hj : j = i / 8
  · rw [if_pos hj.symm, if_pos hj, Option.getD_some, hj]
  · rw [if_neg (Ne.symm hj), if_neg hj, byteAt, List.getD_eq_getElem?_getD]

/-- In the MSB-first numbering of R14 the mask is bit `i` and no other. -/
theorem bitAt_flipBit (j : Nat) : bitAt (flipBit s i) j = if j = i then !bitAt s j else bitAt s j := by
  rw [bitAt, byteAt_flipBit hi]
  by_cases hbyte : j / 8 = i / 8
  · have hmask : (BitVec.twoPow 8 (7 - i % 8)).getMsbD (j % 8) = decide (j = i) := by
      rw [BitVec.getMsbD_twoPow, ← Bool.decide_and]
      exact decide_eq_decide.mpr (by omega)
    rw [if_pos hbyte, BitVec.getMsbD_xor, hmask, ← bitAt]
    by_cases hj : j = i <;> simp [hj]
  · rw [if_neg hbyte, if_neg fun hj => hbyte (congrArg (· / 8) hj), bitAt]

/-- The padding depends on the length alone, which the flip keeps (R261). -/
theorem pad_flipBit : pad (flipBit s i) = flipBit (pad s) i := by
  have hbyte : i / 8 < s.length := by omega
  have hpad : byteAt (pad s) (i / 8) = byteAt s (i / 8) := List.getD_append _ _ _ _ hbyte
  rw [flipBit_eq_set (pad s), hpad, pad, pad, flipBit_length, List.set_append_left _ _ hbyte, ← flipBit_eq_set]

end FlipBit

theorem blockAt_flipBit (s : Bytes) {n i : Nat} (hn : n < i / 64) : blockAt (flipBit s i) n = blockAt s n := by
  rw [blockAt, flipBit_eq_set, List.drop_set, if_neg (by omega), List.take_set_of_le (by omega), blockAt]

/-- Settles O48: the byte toggled, and the one bit of it that its mask is. -/
theorem flipBitRule : Obligations.FlipBitRule := by
  intro s i hi
  have hmask : BitVec.twoPow 8 (7 - i % 8) = BitVec.ofNat 8 (2 ^ (7 - i % 8)) :=
    BitVec.eq_of_toNat_eq (by rw [BitVec.toNat_twoPow, BitVec.toNat_ofNat])
  exact ⟨flipBit_length s i, fun j _ => hmask ▸ byteAt_flipBit hi j, fun j _ => bitAt_flipBit hi j⟩

/-! ## Differing bits (R292, R293) -/

/-- The bits of a byte are as many counted from either end. -/
theorem popCount_eq_countP_getMsbD (b : Byte) : popCount b = (List.range 8).countP fun i => b.getMsbD i := by
  revert b; decide

theorem bitAt_cons_add (b : Byte) (s : Bytes) (i : Nat) : bitAt (b :: s) (8 + i) = bitAt s i := by
  simp [bitAt, byteAt]

theorem bitAt_cons_of_lt (b : Byte) (s : Bytes) {i : Nat} (hi : i < 8) : bitAt (b :: s) i = b.getMsbD i := by
  simp [bitAt, byteAt, Nat.div_eq_of_lt hi, Nat.mod_eq_of_lt hi]

section DifferingBits

variable {x y : Bytes} (h : x.length = y.length)
include h

theorem bitCounts_length : (bitCounts x y).length = x.length := by
  rw [bitCounts, List.length_zipWith, h, Nat.min_self]

/-- Beyond the strings no bit differs, as `byteAt` answers 0 there. -/
theorem bitCounts_getD (j : Nat) : (bitCounts x y).getD j 0 = popCount (byteAt x j ^^^ byteAt y j) := by
  have hlen := bitCounts_length h
  by_cases hj : j < x.length
  · rw [List.getD_eq_getElem _ _ (hlen ▸ hj), byteAt_eq_getElem x j hj, byteAt_eq_getElem y j (h ▸ hj)]
    exact List.getElem_zipWith
  · rw [byteAt, byteAt, List.getD_eq_default _ _ (by omega), List.getD_eq_default _ _ (by omega),
      List.getD_eq_default _ _ (by omega)]
    rfl

/-- The Hamming distance counts the differing bits in the MSB-first numbering (R14, R292). -/
theorem hamming_eq_countP :
    hamming x y = (List.range (8 * x.length)).countP fun b => bitAt x b != bitAt y b := by
  induction x generalizing y with
  | nil => rfl
  | cons a x ih =>
    match y, h with
    | b :: y, h =>
      have hfirst : popCount (a ^^^ b) = (List.range 8).countP fun i => bitAt (a :: x) i != bitAt (b :: y) i := by
        rw [popCount_eq_countP_getMsbD]
        refine List.countP_congr fun i hi => ?_
        rw [bitAt_cons_of_lt a x (List.mem_range.mp hi), bitAt_cons_of_lt b y (List.mem_range.mp hi),
          BitVec.getMsbD_xor, Bool.bne_eq_xor]
      have hrest := ih (Nat.succ.inj h)
      rw [List.length_cons, Nat.mul_succ, Nat.add_comm, List.range_add, List.countP_append, List.countP_map, ← hfirst]
      simp only [Function.comp_def, bitAt_cons_add, ← hrest]
      rfl

end DifferingBits

/-! ## The report (R293, R294) -/

@[simp] theorem compareRuns_base (base flip : Bytes) : (compareRuns base flip).base = base := rfl
@[simp] theorem compareRuns_cnt (base flip : Bytes) : (compareRuns base flip).cnt = bitCounts base flip := rfl
@[simp] theorem compareRuns_diff (base flip : Bytes) : (compareRuns base flip).diff = hamming base flip := rfl
@[simp] theorem compareRuns_total (base flip : Bytes) : (compareRuns base flip).total = 8 * base.length := rfl

theorem flippedCiphertext_length (c : Config) (m k : Bytes) {iv : Bytes} (rounds : Nat) (target : FlipTarget) (i : Nat)
    (hiv : iv.length = 8) :
    (flippedCiphertext c m k iv rounds target i).length = (cbcEnc c m k iv rounds).length := by
  cases target <;> simp [flippedCiphertext, cbcEnc_length _ _ _ _ hiv]

/-- Settles O49: the bounds of `bitCounts` and `hamming`, and a baseline of one block or more. -/
theorem avalancheReportBounds : Obligations.AvalancheReportBounds := by
  intro c m k iv rounds target i hiv _ a
  have hdiff : a.diff ≤ a.total := hamming_le _ _
  have htotal : a.total = 8 * (cbcEnc c m k iv rounds).length := rfl
  have hlen := cbcEnc_length c m k rounds hiv
  exact ⟨rfl, avalanche_cnt_length c m k rounds target i hiv, bitCounts_le _ _, rfl, rfl, by omega, hdiff,
    AvalancheReport.percent_le hdiff⟩

/-! ## Blocks before the flipped one -/

theorem byteAt_eq_blockAt_getD (s : Bytes) (j : Nat) : byteAt s j = (blockAt s (j / 8)).getD (j % 8) 0#8 := by
  have hj : j % 8 < 8 := Nat.mod_lt j (by decide)
  simp [byteAt, blockAt, List.getD_eq_getElem?_getD, hj, Nat.div_add_mod]

/-- Messages of one length whose padded blocks agree below `N` have ciphertexts that agree there: a block is chained to
the one before it alone (45_cbc R263). -/
theorem cbcEnc_blockAt_congr (c : Config) {m m' : Bytes} (k : Bytes) {iv : Bytes} (rounds : Nat) (hiv : iv.length = 8)
    (hlen : m.length = m'.length) {N : Nat} (hN : N ≤ m.length / 8 + 1)
    (h : ∀ n < N, blockAt (pad m) n = blockAt (pad m') n) {n : Nat} (hn : n < N) :
    blockAt (cbcEnc c m k iv rounds) n = blockAt (cbcEnc c m' k iv rounds) n := by
  induction n with
  | zero => rw [cbcEnc_blockAt c m k rounds hiv (by omega), cbcEnc_blockAt c m' k rounds hiv (by omega), h 0 hn]; rfl
  | succ n ih =>
    have hprev := ih (by omega)
    rw [cbcEnc_blockAt c m k rounds hiv (by omega), cbcEnc_blockAt c m' k rounds hiv (by omega), h (n + 1) hn,
      chainedTo, chainedTo, hprev]

/-- Settles O50: the flip is in block `i div 64`, so the padded blocks before it agree. -/
theorem flippedBlockPrefixIsUnchanged : Obligations.FlippedBlockPrefixIsUnchanged := by
  intro c m k iv rounds i j hiv hi hj
  have hblock : blockAt (cbcEnc c (flipBit m i) k iv rounds) (j / 8) = blockAt (cbcEnc c m k iv rounds) (j / 8) :=
    cbcEnc_blockAt_congr c k rounds hiv (flipBit_length m i) (N := i / 64) (by rw [flipBit_length]; omega)
      (fun n hn => by rw [pad_flipBit hi, blockAt_flipBit _ hn]) (by omega)
  have hbyte : byteAt (cbcEnc c (flipBit m i) k iv rounds) j = byteAt (cbcEnc c m k iv rounds) j := by
    rw [byteAt_eq_blockAt_getD, hblock, ← byteAt_eq_blockAt_getD]
  have hlen := flippedCiphertext_length c m k rounds .plaintext i hiv
  refine ⟨hbyte, (bitCounts_getD hlen.symm j).trans ?_⟩
  rw [flippedCiphertext, hbyte, BitVec.xor_self]
  rfl

end Sys2Proof.Machine

/-! O51: the commands AVAL.PT and AVAL.KEY (46_avalanche R295, R296). Both run Regen and put out one report; what that
leaves is said once, for any two runs of one length. -/

namespace Sys2Proof.Machine

/-- A number that fits a register or an element reads back. -/
theorem toNat_ofNat_of_lt {w n : Nat} (h : n < 2 ^ w) : (BitVec.ofNat w n).toNat = n := by
  rw [BitVec.toNat_ofNat, Nat.mod_eq_of_lt h]

/-- A report changes OLEN, its own registers and the elements of OBUF and CNT it fills (R295). -/
theorem State.unchanged_putReport {s : State} (h : s.MemForm) {a : AvalancheReport}
    (hlen : a.base.length ≤ s.cfg.bufCap) :
    Unchanged [.olen, .avDiff, .avTotal, .avPct]
      (fun m i => elementsOf .obuf 0 a.base.length m i ∨ elementsOf .cnt 0 a.cnt.length m i) s (s.putReport a) := by
  have hout := State.unchanged_putOutput h a.base
  obtain ⟨_, _, _, hcnt⟩ :=
    State.unchanged_setMem_writeBytes (State.putOutput_memForm h hlen) .cnt 0 (a.cnt.map (BitVec.ofNat 8))
  rw [List.length_map] at hcnt
  refine (hout.mono (by simp) fun _ _ => .inl).trans
    ⟨rfl, rfl, fun r hr => ?reg, fun m i hi => hcnt m i fun hin => hi (.inr hin)⟩
  case reg =>
    cases r
    case avDiff | avTotal | avPct => simp at hr
    all_goals rfl

/-- What an analysis leaves when it compares the runs `base` and `flip`: every number of the report fits its register
and every count its element. -/
theorem State.regen_putReport_complete {s : State} (hvalid : s.cfg.valid = true) (h : s.MemForm)
    (hrounds : s.RoundsOk) {base flip : Bytes} (hbase : base.length ≤ s.cfg.bufCap)
    (hflip : base.length = flip.length) :
    let t := (s.regen.putReport (compareRuns base flip)).complete
    t.olen.toNat = base.length ∧ t.outputBytes = base ∧
      (∀ j < base.length, (t.cnt.read j).toNat = popCount (byteAt base j ^^^ byteAt flip j)) ∧
      t.avDiff.toNat = hamming base flip ∧ t.avTotal.toNat = 8 * base.length ∧
      t.avPct.toNat = 10000 * t.avDiff.toNat / t.avTotal.toNat ∧
      t.status = { s.status with
        done := true, sv := true, isv := true, pv := true, ipv := true, kv := true, cv := true } ∧
      Unchanged [.status, .olen, .avDiff, .avTotal, .avPct]
        (fun m i => regenElements s.rounds.toNat m i ∨ elementsOf .obuf 0 base.length m i ∨
          elementsOf .cnt 0 base.length m i) s t := by
  intro t
  obtain ⟨_, hcap⟩ := Config.bufCap_bounds hvalid
  have hform := State.regen_memForm h hrounds
  have hdiff := hamming_le base flip
  have hcounts := bitCounts_length hflip
  have havDiff : t.avDiff.toNat = hamming base flip := toNat_ofNat_of_lt (by rw [compareRuns_diff]; omega)
  have havTotal : t.avTotal.toNat = 8 * base.length := toNat_ofNat_of_lt (by rw [compareRuns_total]; omega)
  refine ⟨toNat_ofNat_of_lt (by rw [compareRuns_base]; omega),
    State.putOutput_outputBytes (s := s.regen) (h.wf .obuf) (by rw [compareRuns_base]; omega), fun j hj => ?cnt,
    havDiff, havTotal, ?pct, rfl, ?frame⟩
  case cnt =>
    have hcount := popCount_le (byteAt base j ^^^ byteAt flip j)
    rw [State.complete_cnt, State.putReport_cnt_read (hform.wf .cnt), compareRuns_cnt, if_pos (hcounts ▸ hj),
      bitCounts_getD hflip]
    exact toNat_ofNat_of_lt (by omega)
  case pct =>
    have hpct : (compareRuns base flip).percent ≤ 10000 := AvalancheReport.percent_le hdiff
    rw [havDiff, havTotal]
    exact toNat_ofNat_of_lt (by omega)
  case frame =>
    have hreport := State.unchanged_putReport hform (a := compareRuns base flip) hbase
    rw [compareRuns_cnt, hcounts] at hreport
    exact ((((State.unchanged_regen h).mono (regs' := [.status, .olen, .avDiff, .avTotal, .avPct]) (by simp)
      fun _ _ => .inl).trans (hreport.mono (by simp) fun _ _ => .inr)).with_status _).mono (by simp) fun _ _ => id

/-- The checks of both commands pass on an input that leaves room for the padding and a bit index inside the target. -/
theorem exec_avalanche (target : FlipTarget) {s : State} (herr : s.status.err = .noFault) (hkey : s.KeyOk)
    (hrounds : s.RoundsOk) (hilen : s.ilen.toNat + 8 ≤ s.cfg.bufCap)
    (hbit : s.bitidx.toNat < 8 * (if target = .plaintext then s.ilen.toNat else s.keylen.toNat)) :
    exec (if target = .plaintext then .avalPt else .avalKey) s =
      .next (s.regen.putReport (s.avalancheReport target)).complete := by
  have hpass : ∀ len, s.bitidx.toNat < 8 * len →
      ∀ c ∈ [s.checkKeylen, s.checkRounds, s.checkPadLen, s.checkBitidx len], c = none := fun len hlt => by
    simp [(s.checkKeylen_eq_none_iff).mpr hkey, (s.checkRounds_eq_none_iff).mpr hrounds,
      (s.checkPadLen_eq_none_iff).mpr hilen, (s.checkBitidx_eq_none_iff len).mpr hlt]
  cases target with
  | plaintext => exact exec_completes .avalPt nofun herr (hpass _ hbit)
  | key => exact exec_completes .avalKey nofun herr (hpass _ hbit)

/-- Settles O51: the report compares the baseline with the flipped run, whose lengths agree. -/
theorem avalancheCompletes : Obligations.AvalancheCompletes := by
  intro s target hvalid herr hform hkey hrounds hilen hbit base flip
  have hreport : s.avalancheReport target = compareRuns base flip := by cases target <;> rfl
  have hexec := exec_avalanche target herr hkey hrounds hilen hbit
  rw [hreport] at hexec
  have hbase : base.length = 8 * (s.ilen.toNat / 8 + 1) := s.cbcCiphertext_length
  have hflip : base.length = flip.length := by
    have hlen := flippedCiphertext_length s.cfg s.inputBytes s.keyMaterial s.rounds.toNat target s.bitidx.toNat
      s.ivBytes_length
    cases target <;> exact hlen.symm
  obtain ⟨holen, hout, hcnt, hdiff, hleaves⟩ :=
    State.regen_putReport_complete hvalid hform hrounds (State.cbcCiphertext_fits hvalid hilen).1 hflip
  exact ⟨_, hexec, holen.trans hbase, hout, hcnt, hdiff.trans (hamming_eq_countP hflip), hleaves⟩

end Sys2Proof.Machine

/-! O5, O6, O7 and O11: what issuing a command word can do (60_exceptions R320, R324, R325, R327), and SYS.NOP (47_system
R310). -/

namespace Sys2Proof.Machine

/-! ## The outcomes of a command word (R320) -/

theorem decode_eq_sysRst_iff {w : Word} : decode w = .ok .sysRst ↔ w = 1#32 := by
  constructor
  · exact fun h => (encode_of_decode h).symm
  · rintro rfl
    exact decode_encode .sysRst

/-- The word of SYS.RST resets, halted or not (47_system R311). -/
theorem issue_one (s : State) : issue 1#32 s = .next s.toReset :=
  issue_of_decode (decode_eq_sysRst_iff.mpr rfl) s

theorem State.illegalCommand_halted {s : State} (h : s.halted = true) (w : Word) : s.illegalCommand w = s := by
  rw [State.illegalCommand, if_pos h]

/-- Everything an issued command word can have done: reset; nothing in a halted engine; a fault, which ERR and FINFO
record; completion of a legal command. -/
theorem issue_inv {w : Word} {s t : State} (h : issue w s = .next t) :
    (w = 1#32 ∧ t = s.toReset) ∨
    (s.halted = true ∧ w ≠ 1#32 ∧ t = s) ∨
    (s.halted = false ∧ ∃ code info, code ≠ FaultCode.noFault ∧ t = s.takeFault code info) ∨
    (s.halted = false ∧ w ≠ 1#32 ∧ (∃ i, decode w = .ok i) ∧ t.status.err = .noFault ∧ t.status.done = true) := by
  by_cases hw : w = 1#32
  · subst hw
    rw [issue_one] at h
    cases h
    exact .inl ⟨rfl, rfl⟩
  cases hdecode : decode w with
  | ok i =>
    rw [issue_of_decode hdecode] at h
    rcases exec_inv h with ⟨rfl, _⟩ | ⟨hhalt, ht⟩ | hfault | ⟨hhalt, _, _, records, rfl⟩
    · exact absurd (decode_eq_sysRst_iff.mp hdecode) hw
    · exact .inr (.inl ⟨hhalt, hw, ht⟩)
    · exact .inr (.inr (.inl hfault))
    · have herr := (commandEffect_frame s i).err.trans ((s.halted_eq_false_iff).mp hhalt)
      exact .inr (.inr (.inr ⟨hhalt, hw, ⟨i, rfl⟩, herr, rfl⟩))
  | error e =>
    rw [issue, hdecode] at h
    cases h
    cases hhalt : s.halted with
    | true => exact .inr (.inl ⟨rfl, hw, s.illegalCommand_halted hhalt w⟩)
    | false =>
      have hfault := State.illegalCommand_running ((s.halted_eq_false_iff).mp hhalt) w
      exact .inr (.inr (.inl ⟨rfl, .illegalCmd, w, nofun, hfault⟩))

theorem issue_halted {w : Word} {s : State} (hhalt : s.halted = true) (hw : w ≠ 1#32) : issue w s = .next s := by
  obtain ⟨t, h⟩ := issue_next w s
  rcases issue_inv h with ⟨rfl, _⟩ | ⟨_, _, rfl⟩ | ⟨hrun, _⟩ | ⟨hrun, _⟩
  · exact absurd rfl hw
  · exact h
  · exact absurd hhalt (Bool.eq_false_iff.mp hrun)
  · exact absurd hhalt (Bool.eq_false_iff.mp hrun)

/-- Settles O5: the step issues the word on the state without the access, which is as halted as before. -/
theorem haltedEngineIgnoresEveryWordButReset : Obligations.HaltedEngineIgnoresEveryWordButReset := by
  intro s w rest herr hbusy hpending
  have hhalt : (s.accept rest).halted = true := (s.halted_eq_true_iff).mpr herr
  have hstep := step_issue hpending hbusy
  constructor
  · exact fun hw => hstep.trans (issue_halted hhalt hw)
  · rintro rfl
    exact ⟨_, hstep.trans (issue_one _), State.resetOf_allZero _ _⟩

/-- Settles O6, one outcome for each way an issued word can end, reset a completion with DONE = 0. -/
theorem commandWordHasOneOfThreeOutcomes : Obligations.CommandWordHasOneOfThreeOutcomes := by
  intro s w
  obtain ⟨t, h⟩ := issue_next w s
  refine ⟨t, h, ?_⟩
  rcases issue_inv h with ⟨rfl, rfl⟩ | ⟨hhalt, hw, rfl⟩ | ⟨hrun, code, info, hcode, rfl⟩ |
    ⟨hrun, hw, hlegal, herr, hdone⟩
  · exact .inr (.inl ⟨.inr rfl, ⟨.sysRst, decode_eq_sysRst_iff.mpr rfl⟩, rfl,
      iff_of_false Bool.false_ne_true fun h => h rfl⟩)
  · exact .inl ⟨(t.halted_eq_true_iff).mp hhalt, hw, rfl⟩
  · exact .inr (.inr ⟨(s.halted_eq_false_iff).mp hrun, hcode, rfl⟩)
  · exact .inr (.inl ⟨.inl ((s.halted_eq_false_iff).mp hrun), hlegal, herr, iff_of_true hdone hw⟩)

/-- Settles O7: of the ways an issued word can end in a running engine, fault entry alone leaves a fault recorded. -/
theorem faultEntryIsPrecise : Obligations.FaultEntryIsPrecise := by
  intro s w hrun
  obtain ⟨t, h⟩ := issue_next w s
  refine ⟨t, h, fun hfault => ?_⟩
  rcases issue_inv h with ⟨_, rfl⟩ | ⟨_, _, rfl⟩ | ⟨_, code, info, hcode, rfl⟩ | ⟨_, _, _, herr, _⟩
  · exact absurd rfl hfault
  · exact absurd hrun hfault
  · exact ⟨code, info, hcode, rfl⟩
  · exact absurd herr hfault

/-! ## SYS.NOP (47_system R310) -/

/-- Settles O11: SYS.NOP has no check and no effect of its own, and its word with T = 1 is not legal. -/
theorem sysNopSetsDoneOnly : Obligations.SysNopSetsDoneOnly := by
  refine ⟨decode_encode .sysNop, fun i hi => ?_, fun s => ⟨fun herr => ?_, fun herr => ?_⟩⟩
  · have hlegal := (legalWord_iff_exists_decode _).mpr ⟨i, hi⟩
    exact absurd hlegal (by decide)
  · exact exec_completes .sysNop nofun herr nofun
  · exact runCommand_halted ((s.halted_eq_true_iff).mpr herr) [] s

end Sys2Proof.Machine

/-! O8 and O10: the checks of a command as the spec's rows, of which the first that fails is the fault recorded
(60_exceptions R321, R326), and what they answer straight after reset (70_reset_and_hazards R352). -/

namespace Sys2Proof.Machine

/-! ## A row as a check -/

/-- The check a row describes. -/
def CheckRow.record (c : CheckRow) : Option FaultRecord := if c.passes then none else some ⟨c.code, c.info⟩

theorem CheckRow.record_eq_none_iff (c : CheckRow) : c.record = none ↔ c.passes = true := by
  rw [CheckRow.record]
  split <;> simp [*]

theorem CheckRow.record_of_fails {c : CheckRow} (h : c.passes = false) : c.record = some ⟨c.code, c.info⟩ := by
  rw [CheckRow.record, h]
  rfl

section Rows

variable (s : State)

theorem keylenRow_record : (keylenRow s).record = s.checkKeylen := by
  simp [CheckRow.record, keylenRow, State.checkKeylen]

theorem roundsRow_record : (roundsRow s).record = s.checkRounds := by
  simp [CheckRow.record, roundsRow, State.checkRounds]

theorem ridxRow_record : (ridxRow s).record = s.checkRidx := by
  simp [CheckRow.record, ridxRow, State.checkRidx]

theorem blockRow_record : (blockRow s).record = s.checkBlockLen := by
  simp [CheckRow.record, blockRow, State.checkBlockLen, ← BitVec.toNat_inj]

theorem lengthRow_bufCap_record : (lengthRow s s.cfg.bufCap).record = s.checkInputLen := by
  simp [CheckRow.record, lengthRow, State.checkInputLen]

theorem lengthRow_padded_record : (lengthRow s (s.cfg.bufCap - 8)).record = s.checkPadLen := by
  have hiff : (s.ilen.toNat : Int) ≤ s.cfg.bufCap - 8 ↔ s.ilen.toNat + 8 ≤ s.cfg.bufCap := by omega
  simp [CheckRow.record, lengthRow, State.checkPadLen, hiff]

theorem formatRow_record :
    CheckRow.record ⟨s.ilen.toNat ≠ 0 && s.ilen.toNat % 8 == 0, .format, s.ilen⟩ = s.checkFormat := by
  simp [CheckRow.record, State.checkFormat, Nat.pos_iff_ne_zero]

theorem bitidxRow_record (len : Nat) :
    CheckRow.record ⟨s.bitidx.toNat < 8 * len, .badIndex, s.bitidx⟩ = s.checkBitidx len := by
  simp [CheckRow.record, State.checkBitidx]

end Rows

theorem firstFailure_cons (c : Option FaultRecord) (l : List (Option FaultRecord)) :
    firstFailure (c :: l) = c.or (firstFailure l) := by
  cases c <;> rfl

theorem checkReady_nil : checkReady [] = none := rfl

/-- One flag after the other: each is a row of its own (10_state R27). -/
theorem checkReady_cons (flag : Bool) (bit : Nat) (l : List (Bool × Nat)) :
    checkReady ((flag, bit) :: l) = (readyRow flag (BitVec.ofNat 32 bit)).record.or (checkReady l) := by
  cases flag <;> rfl

/-! ## The checks of a command in its rule's order -/

/-- The data-dependent check of SBOX.INV, PBOX.INV and CBC.DEC, made after all rows (40_sbox R114; 41_pbox R138; 45_cbc
R270). -/
def dataChecks (s : State) : Instr → List (Option FaultRecord)
  | .sboxInv => [(tableInvert s.sboxTable 16).check]
  | .pboxInv => [(tableInvert s.pboxTable 64).check]
  | .cbcDec => [s.cbcPlaintext.check]
  | _ => []

theorem dataChecks_eq_nil {i : Instr} (h : i ∉ [.sysRst, .sboxInv, .pboxInv, .cbcDec]) (s : State) :
    dataChecks s i = [] := by
  cases i
  case sboxInv | pboxInv | cbcDec => simp at h
  all_goals rfl

/-- A command fails as its rows do, in their order, and after them as its data-dependent check does. -/
theorem firstFailure_commandChecks (s : State) (i : Instr) :
    firstFailure (commandChecks s i) = firstFailure ((checkRows s i).map CheckRow.record ++ dataChecks s i) := by
  cases i
  case sysNop | sysRst | sboxInv | pboxInv | ksRc16 => rfl
  case sboxGen | pboxGen | ksNorm | ksConst | blkEnc | blkDec =>
    simp only [commandChecks, checkRows, dataChecks, List.map_cons, List.map_nil, List.append_nil, keylenRow_record,
      roundsRow_record, blockRow_record]
  case cbcEnc | cbcDec | avalPt | avalKey =>
    simp only [commandChecks, checkRows, dataChecks, List.map_cons, List.map_nil, List.cons_append, List.append_nil,
      List.nil_append, keylenRow_record, roundsRow_record, lengthRow_bufCap_record, lengthRow_padded_record,
      formatRow_record, bitidxRow_record]
  case sboxFwd | sboxBwd | pboxFwd | pboxBwd | ksSubk | rndFwd | rndInv =>
    simp only [commandChecks, checkRows, dataChecks, List.map_cons, List.map_nil, List.append_nil, firstFailure_cons,
      firstFailure_nil, keylenRow_record, roundsRow_record, ridxRow_record, blockRow_record, lengthRow_bufCap_record,
      checkReady_cons, checkReady_nil, Option.or_none]
    rfl

/-- Settles O8: the first failing row is the first failing check, and a command whose rows pass and that has no check
but them completes. -/
theorem firstFailingCheckIsReported : Obligations.FirstFailingCheckIsReported := by
  intro i s herr
  constructor
  · intro before after c hrows hbefore hfails
    have hi : i ≠ .sysRst := by
      rintro rfl
      simp [checkRows] at hrows
    have hfirst : firstFailure (commandChecks s i) = some ⟨c.code, c.info⟩ := by
      rw [firstFailure_commandChecks, hrows, firstFailure_eq_some_iff]
      refine ⟨before.map CheckRow.record, after.map CheckRow.record ++ dataChecks s i, ?_, ?_⟩
      · simp [CheckRow.record_of_fails hfails]
      · simpa [CheckRow.record_eq_none_iff] using hbefore
    exact exec_faults i hi herr hfirst
  · intro hrows hi
    have hrst : i ≠ .sysRst := fun h => hi (h ▸ List.mem_cons_self)
    have hpass : firstFailure (commandChecks s i) = none := by
      rw [firstFailure_commandChecks, dataChecks_eq_nil hi, firstFailure_eq_none_iff]
      simpa [CheckRow.record_eq_none_iff] using hrows
    refine ⟨_, exec_completes_withTrace i hrst herr ((firstFailure_eq_none_iff _).mp hpass), ?_, rfl⟩
    exact (commandEffect_frame s i).err.trans herr

/-! ## Straight after reset (R352) -/

section AfterReset

variable (c : Config) (p : Port)

/-- The empty key is legal (10_state R29). -/
theorem State.resetOf_keylenRow_passes : (keylenRow (State.resetOf c p)).passes = true := by
  simp [keylenRow, State.resetOf]

/-- An ILEN of 0 is within every buffer. -/
theorem State.resetOf_lengthRow_passes : (lengthRow (State.resetOf c p) c.bufCap).passes = true := by
  simp [lengthRow, State.resetOf]

/-- ROUNDS is 0 after reset, so a command that checks it, after at most KEYLEN, stops there. -/
theorem exec_resetOf_badRounds {i : Instr} {before after : List CheckRow}
    (hrows : checkRows (State.resetOf c p) i = before ++ roundsRow (State.resetOf c p) :: after)
    (hbefore : before ⊆ [keylenRow (State.resetOf c p)]) :
    exec i (State.resetOf c p) = .next ((State.resetOf c p).takeFault .badRounds 0#32) := by
  obtain ⟨hfirst, _⟩ := firstFailingCheckIsReported i (State.resetOf c p) rfl
  refine hfirst before after _ hrows (fun b hb => ?_) rfl
  rw [List.mem_singleton.mp (hbefore hb)]
  exact State.resetOf_keylenRow_passes c p

/-- Every entry reads as 0 after reset, so the second is the first that repeats one (40_sbox R108). -/
theorem badEntry_zero_iff {n : Nat} (hn : 0 < n) (i : Nat) : BadEntry (fun _ => 0) n i ↔ 0 < i := by
  simp only [BadEntry, and_true]
  exact ⟨by rintro (h | ⟨j, hj⟩) <;> omega, fun h => .inr ⟨0, h⟩⟩

theorem exec_resetOf_tableInversion :
    exec .sboxInv (State.resetOf c p) = .next ((State.resetOf c p).takeFault .notBijection 1#32) ∧
      exec .pboxInv (State.resetOf c p) = .next ((State.resetOf c p).takeFault .notBijection 1#32) := by
  obtain ⟨hsbox, hpbox⟩ := tableInversionFaultsAtLowestIndex (State.resetOf c p) 1 rfl
  have hbad {n : Nat} (hn : 0 < n) := (badEntry_zero_iff hn 1).mpr (by decide)
  have hfirst {n : Nat} (hn : 0 < n) : ∀ k < 1, ¬ BadEntry (fun _ => 0) n k := fun k hk h =>
    absurd ((badEntry_zero_iff hn k).mp h) (by omega)
  exact ⟨hsbox (by decide) (hbad (by decide)) (hfirst (by decide)),
    hpbox (by decide) (hbad (by decide)) (hfirst (by decide))⟩

end AfterReset

/-- Settles O10: each outcome is the one O8 or O21 says of the reset state. -/
theorem straightAfterReset : Obligations.StraightAfterReset := by
  intro c p s faults
  have hchecks (i : Instr) := firstFailingCheckIsReported i s rfl
  have hkeylen : ∀ b ∈ [keylenRow s], b.passes = true :=
    List.forall_mem_singleton.mpr (State.resetOf_keylenRow_passes c p)
  have hlength : ∀ b ∈ [lengthRow s s.cfg.bufCap], b.passes = true :=
    List.forall_mem_singleton.mpr (State.resetOf_lengthRow_passes c p)
  obtain ⟨hsboxInv, hpboxInv⟩ := exec_resetOf_tableInversion c p
  refine ⟨fun i hi => ?complete, ⟨s.toReset, rfl, rfl⟩, hsboxInv, hpboxInv, ?sboxFwd, ?sboxBwd, ?pboxFwd, ?pboxBwd,
    fun i hi => ?badRounds, fun t => ?traced⟩
  case complete =>
    have hrows : ∀ j ∈ [Instr.sysNop, .sboxGen, .pboxGen, .ksNorm, .ksRc16],
        checkRows s j ⊆ [keylenRow s] ∧ j ∉ [.sysRst, .sboxInv, .pboxInv, .cbcDec] := by simp [checkRows]
    obtain ⟨hsubset, hdata⟩ := hrows i hi
    obtain ⟨_, hcompletes⟩ := hchecks i
    exact hcompletes (fun b hb => hkeylen b (hsubset hb)) hdata
  case sboxFwd | sboxBwd =>
    obtain ⟨hfirst, _⟩ := hchecks _
    exact hfirst [_] [] (readyRow false _) rfl hlength rfl
  case pboxFwd | pboxBwd =>
    obtain ⟨hfirst, _⟩ := hchecks _
    exact hfirst [] [readyRow false _] (blockRow s) rfl nofun rfl
  case badRounds =>
    have hrows : ∀ j ∈ [Instr.ksSubk, .ksConst, .cbcEnc, .cbcDec, .avalPt, .avalKey],
        ∃ after, checkRows s j = [keylenRow s] ++ roundsRow s :: after := by simp [checkRows]
    obtain ⟨_, hafter⟩ := hrows i hi
    exact exec_resetOf_badRounds c p hafter (List.Subset.refl _)
  case traced =>
    have hround : [] ⊆ [keylenRow s] := List.nil_subset _
    have hblock : [keylenRow s] ⊆ [keylenRow s] := List.Subset.refl _
    exact ⟨exec_resetOf_badRounds c p rfl hround, exec_resetOf_badRounds c p rfl hround,
      exec_resetOf_badRounds c p rfl hblock, exec_resetOf_badRounds c p rfl hblock⟩

end Sys2Proof.Machine

/-! O36: the memories whose flags are 1 hold the parts of the derived set that a round below ROUNDS takes
(70_reset_and_hazards R354; 44_block_engine R241). -/

namespace Sys2Proof.Machine

/-! ## What is held when the flags are 1 (10_state R24, R27) -/

/-- A row of a schedule memory (10_state R34). -/
theorem Memory.rows_getD (m : Memory) {n r : Nat} (hr : r < n) : (m.rows n).getD r [] = m.slice (8 * r) 8 := by
  simp [Memory.rows, hr]

section Truthful

variable {s : State} (h : s.FlagsTruthful)
include h

theorem State.rk_slice_eq_keyParams_rkAt (hkv : s.status.kv = true)
    (hsbox : s.sboxTable = sboxGen s.cfg s.keyMaterial) {r : Nat} (hr : r < s.rounds.toNat) :
    s.rk.slice (8 * r) 8 = s.keyParams.rkAt r := by
  obtain ⟨_, _, _, _, hk, _⟩ := h
  obtain ⟨_, _, _, hrows⟩ := hk hkv
  rw [RoundParams.rkAt, State.keyParams_rk, ← hsbox, ← hrows, Memory.rows_getD _ hr]

theorem State.rcon_slice_eq_keyParams_rconAt (hcv : s.status.cv = true) {r : Nat} (hr : r < s.rounds.toNat) :
    s.rcon.slice (8 * r) 8 = s.keyParams.rconAt r := by
  obtain ⟨_, _, _, _, _, hc⟩ := h
  obtain ⟨_, _, hrows, _⟩ := hc hcv
  rw [RoundParams.rconAt, State.keyParams_rcon, ← hrows, Memory.rows_getD _ hr]

theorem State.mask_read_eq_keyParams_maskAt (hcv : s.status.cv = true) {r : Nat} (hr : r < s.rounds.toNat) :
    s.mask.read r = s.keyParams.maskAt r := by
  obtain ⟨_, _, _, _, _, hc⟩ := h
  obtain ⟨_, _, _, hmasks⟩ := hc hcv
  rw [RoundParams.maskAt, State.keyParams_mask, ← hmasks, byteAt, Memory.slice_getD _ _ _ _ hr, Nat.zero_add]

theorem State.isboxTable_eq_keyParams_isbox (hisv : s.status.isv = true)
    (hsbox : s.sboxTable = sboxGen s.cfg s.keyMaterial) : s.isboxTable = s.keyParams.isbox := by
  obtain ⟨_, hinverse, _⟩ := h
  obtain ⟨_, htables⟩ := hinverse hisv
  rw [State.keyParams_isbox, ← hsbox, htables.tableInvert_eq_ok, InvertResult.table]

theorem State.ipboxTable_eq_keyParams_ipbox (hipv : s.status.ipv = true)
    (hpbox : s.pboxTable = pboxGen s.cfg s.keyMaterial) : s.ipboxTable = s.keyParams.ipbox := by
  obtain ⟨_, _, _, hinverse, _⟩ := h
  obtain ⟨_, htables⟩ := hinverse hipv
  rw [State.keyParams_ipbox, ← hpbox, htables.tableInvert_eq_ok, InvertResult.table]

end Truthful

/-- Settles O36: O33 and O34 say the output in the memories' contents, which are the parts of the derived set. -/
theorem leafRoundsReproduceDerivedRounds : Obligations.LeafRoundsReproduceDerivedRounds := by
  intro s traced herr hform hflags hridx hilen hkv hcv hsbox hpbox
  have ⟨_, _, _, _, hk, _⟩ := hflags
  obtain ⟨hsv, _, hrounds, _⟩ := hk hkv
  have hrk := State.rk_slice_eq_keyParams_rkAt hflags hkv hsbox hridx
  have hrcon := State.rcon_slice_eq_keyParams_rconAt hflags hcv hridx
  have hmask := State.mask_read_eq_keyParams_maskAt hflags hcv hridx
  constructor
  · intro hpv
    obtain ⟨t, hexec, hobuf, _⟩ :=
      roundForwardCompletes s traced herr hform hrounds hridx hilen hsv hpv hkv hcv
    rw [hrk, hrcon, hmask, hsbox, hpbox, ← s.keyParams_sbox, ← s.keyParams_pbox] at hobuf
    exact ⟨t, hexec, hobuf⟩
  · intro hisv hipv
    obtain ⟨t, hexec, hobuf, _⟩ :=
      roundInverseCompletes s traced herr hform hrounds hridx hilen hisv hipv hkv hcv
    rw [hrk, hrcon, hmask, State.isboxTable_eq_keyParams_isbox hflags hisv hsbox,
      State.ipboxTable_eq_keyParams_ipbox hflags hipv hpbox] at hobuf
    exact ⟨t, hexec, hobuf⟩

end Sys2Proof.Machine
